-- ==== Sys2Proof/Word.lean ====
section
/-! DEFINITION. The widths of BMPFP's registers and of the bytes it moves (spec/10_state.md, spec/00_scope.md R9). -/

namespace Sys2Proof

/-- A byte of the stream, of `FRAME` or of `LUT`. -/
abbrev Byte := BitVec 8

/-- A 16-bit header latch. -/
abbrev Half := BitVec 16

/-- A 32-bit register, and a host register word (R22). -/
abbrev Word := BitVec 32

/-- A 64-bit stream position (R41). -/
abbrev Pos := BitVec 64

end Sys2Proof
end

