-- ==== Sys2Proof/Config.lean ====
section
/-! DEFINITION. The implementation parameters of spec/00_scope.md R5: a record of build-time constants. Which records are
legal is `Config.legal` of WellFormed.lean. -/

namespace Sys2Proof

/-- A stored channel, coded 0 blue, 1 green, 2 red (R69). The reserved code 3 has no name (R6, U20). -/
inductive Channel
  | blue
  | green
  | red
deriving DecidableEq, Repr

/-- `ORDER[0..2]`: the stored channel put in each output slot (R69). -/
structure ChannelOrder where
  slot0 : Channel
  slot1 : Channel
  slot2 : Channel
deriving DecidableEq, Repr

/-- The configuration record of R5. `GAMMA` and `BRIGHTNESS` do not exist in the hardware: only `LUT` does (R5, D12). -/
structure Config where
  /-- `L` -/
  stripLength : Word
  /-- `LOOP` -/
  loop : Bool
  /-- `LUT[0..255]`, any 256 bytes (R6's wider configuration, log 32) -/
  lut : Vector Byte 256
  /-- `ORDER` -/
  order : ChannelOrder
  /-- `SPEED`, read by no rule but the register map -/
  speed : Word
  /-- `MAX_FRAMES` -/
  maxFrames : Word
  /-- `BUSY_CODE` -/
  busyCode : Word
deriving DecidableEq, Repr

/-- The source's wiring (green, red, blue) = (1, 2, 0) (R5, R69). -/
def ChannelOrder.grb : ChannelOrder := ⟨.green, .red, .blue⟩

/-- The table of `lutgen(1, 1)`: `LUT[v] = v` (R128 f). -/
def Config.identityLut : Vector Byte 256 := ⟨((List.range 256).map fun v => BitVec.ofNat 8 v).toArray, by simp⟩

/-- The configuration `State.reset` is built with. DESIGN CHOICE (log 2), unsafe: R5 gives no values but `ORDER` and
`BUSY_CODE`; the others are those of spec/95_test_vectors.md program P1. No statement rests on them. -/
def Config.vectors : Config where
  stripLength := 4
  loop := false
  lut := Config.identityLut
  order := ChannelOrder.grb
  speed := 0
  maxFrames := 64
  busyCode := 28

/-- R127: `t` is `lutgen(g, b)`, evaluated in exact real arithmetic, rounded half up, clamped to a byte. -/
def Config.IsLutgen (g b : ℝ) (t : Vector Byte 256) : Prop :=
  ∀ v : Fin 256,
    ((t[v].toNat : ℕ) : ℤ) = min 255 (max 0 ⌊((v.val : ℝ) / 255) ^ g * b * 255 + 1 / 2⌋)

end Sys2Proof
end

