-- ==== Sys2Proof/Syntax.lean ====
section
/-! DEFINITION. What the sequencer and the host are told to do: one constructor of `Instr` per row of
spec/opcode_table.json, the 25 `PHASE` values (R72), and the three encodings an instruction comes in (R60). -/

namespace Sys2Proof

/-- The ten consecutive fields of stream positions 0 to 33 (R61), named as the table's row BMP24 names them. -/
structure Header where
  /-- `SIG`, position 0 -/
  sig : Half
  /-- `FILE_SIZE`, position 2, discarded (R63) -/
  fileSize : Word
  /-- `RESERVED`, position 6, discarded (R63) -/
  reserved : Word
  /-- `DATA_OFFSET`, position 10 -/
  dataOffset : Word
  /-- `DIB_SIZE`, position 14, discarded (R63) -/
  dibSize : Word
  /-- `WIDTH_RAW`, position 18 -/
  width : Word
  /-- `HEIGHT_RAW`, position 22 -/
  height : Word
  /-- `PLANES`, position 26 -/
  planes : Half
  /-- `BIT_DEPTH`, position 28 -/
  bitDepth : Half
  /-- `COMPRESSION`, position 30 -/
  compression : Word
deriving DecidableEq, Repr

/-- The rows of spec/opcode_table.json. The sequencer operations take no operands: each reads and writes fixed
registers (R75). -/
inductive Instr
  /-- `START`: begin a load (R81) -/
  | start
  /-- `FRD f`: read frame `f` (R82) -/
  | frd (f : Nat)
  | hseek
  | rdsig
  | skipa
  | rdoff
  | skipb
  | rdwid
  | rdhgt
  | rdpln
  | rdbpp
  | rdcmp
  | roword
  | stride
  | clip
  | fclear
  | rowseek
  | pixrd
  | gamma
  | reord
  | pixst
  | rowend
  | blank
  | finish
  /-- `BMP24`: the accepted 34-byte header (R62), parsed whole (R101, log 17) -/
  | bmp24 (h : Header)
deriving DecidableEq, Repr

/-- `PHASE`: 22 operations and 3 resting states. R72: a closed enumeration of the 25 named codes loses nothing. -/
inductive Phase
  | idle
  | hseek
  | rdsig
  | skipa
  | rdoff
  | skipb
  | rdwid
  | rdhgt
  | rdpln
  | rdbpp
  | rdcmp
  | roword
  | stride
  | clip
  | fclear
  | rowseek
  | pixrd
  | gamma
  | reord
  | pixst
  | rowend
  | blank
  | finish
  | done
  | error
deriving DecidableEq, Repr

/-- An instruction as the hardware is told it: a `PHASE5` code, a `CMD32` word or `BMPHDR34` bytes in stream order (R60). -/
inductive Encoded
  | phase (code : BitVec 5)
  | command (word : Word)
  | header (bytes : List Byte)
deriving DecidableEq, Repr

/-- Why an encoding is no instruction. -/
inductive DecodeError
  /-- `IDLE`, `DONE` or `ERROR`: the sequencer has no step (R11) -/
  | restingPhase
  /-- codes 0x17 to 0x1D (R72, U17) -/
  | reservedPhase
  /-- a reserved command word (R71, R83) -/
  | reservedCommand
  /-- not exactly 34 header bytes (R61) -/
  | headerLength
  /-- the header misses the accepted pattern in its signature (R62) -/
  | badSignature
  /-- … in its plane count -/
  | badPlanes
  /-- … in its bit depth -/
  | badBitDepth
  /-- … in its compression field -/
  | badCompression
deriving DecidableEq, Repr

end Sys2Proof
end

