-- ==== Sys2Proof/WellFormed.lean ====
section
/-! DEFINITION. Which instructions are well formed (their fields fit the encoding) and which configurations are legal
(spec/00_scope.md R5, R6). -/

namespace Sys2Proof

/-- R62: the four validated fields hold the values the accepted pattern fixes. -/
def Header.accepted (h : Header) : Bool :=
  h.sig == 0x4D42 && h.planes == 1 && h.bitDepth == 24 && h.compression == 0

/-- A `FRD` argument has 24 bits (R70), a `BMP24` header meets the pattern (R62), the rest have no operands. -/
def Instr.wf : Instr → Bool
  | .frd f => decide (f < 2 ^ 24)
  | .bmp24 h => h.accepted
  | .start => true
  | .hseek => true
  | .rdsig => true
  | .skipa => true
  | .rdoff => true
  | .skipb => true
  | .rdwid => true
  | .rdhgt => true
  | .rdpln => true
  | .rdbpp => true
  | .rdcmp => true
  | .roword => true
  | .stride => true
  | .clip => true
  | .fclear => true
  | .rowseek => true
  | .pixrd => true
  | .gamma => true
  | .reord => true
  | .pixst => true
  | .rowend => true
  | .blank => true
  | .finish => true

/-- R69: the three codes are distinct. -/
def ChannelOrder.isPermutation (o : ChannelOrder) : Bool :=
  o.slot0 != o.slot1 && o.slot0 != o.slot2 && o.slot1 != o.slot2

/-- R5: `L >= 1`, `ORDER` a permutation, `1 <= MAX_FRAMES <= 2^24`. -/
def Config.legal (c : Config) : Bool :=
  decide (1 ≤ c.stripLength.toNat) && c.order.isPermutation
    && decide (1 ≤ c.maxFrames.toNat) && decide (c.maxFrames.toNat ≤ 2 ^ 24)

end Sys2Proof
end

