-- ==== Sys2Proof/Decode.lean ====
section
/-! DEFINITION. The encodings of spec/30_encoding.md read (`decode`) and written (`encode`): the 5-bit `PHASE` code, the
32-bit command word and the 34-byte header, with the little-endian helpers they use (R9, R45, R64). -/

namespace Sys2Proof

/-! ## Little-endian numbers -/

/-- `le_N(b)` of R9: the sum of `b[i] << (8*i)`, for a byte list of any length. -/
def leNat : List Byte → Nat
  | [] => 0
  | b :: bs => b.toNat + 2 ^ 8 * leNat bs

/-- The `n` bytes of a number, least significant first: what `leNat` reads back. -/
def leBytes : Nat → Nat → List Byte
  | 0, _ => []
  | n + 1, x => BitVec.ofNat 8 x :: leBytes n (x / 2 ^ 8)

/-- `le_16` (R9). -/
def le16 (b : List Byte) : Half := BitVec.ofNat 16 (leNat b)

/-- `le_32` (R9). -/
def le32 (b : List Byte) : Word := BitVec.ofNat 32 (leNat b)

/-! ## The `PHASE5` codes (R72) -/

/-- The 5-bit code of each `PHASE` value (R72). -/
def Phase.code : Phase → BitVec 5
  | .idle => 0x00
  | .hseek => 0x01
  | .rdsig => 0x02
  | .skipa => 0x03
  | .rdoff => 0x04
  | .skipb => 0x05
  | .rdwid => 0x06
  | .rdhgt => 0x07
  | .rdpln => 0x08
  | .rdbpp => 0x09
  | .rdcmp => 0x0A
  | .roword => 0x0B
  | .stride => 0x0C
  | .clip => 0x0D
  | .fclear => 0x0E
  | .rowseek => 0x0F
  | .pixrd => 0x10
  | .gamma => 0x11
  | .reord => 0x12
  | .pixst => 0x13
  | .rowend => 0x14
  | .blank => 0x15
  | .finish => 0x16
  | .done => 0x1E
  | .error => 0x1F

/-- The `PHASE` value of a code; none for the reserved codes 0x17 to 0x1D (R72). -/
def Phase.ofCode (c : BitVec 5) : Option Phase :=
  match c.toNat with
  | 0x00 => some .idle
  | 0x01 => some .hseek
  | 0x02 => some .rdsig
  | 0x03 => some .skipa
  | 0x04 => some .rdoff
  | 0x05 => some .skipb
  | 0x06 => some .rdwid
  | 0x07 => some .rdhgt
  | 0x08 => some .rdpln
  | 0x09 => some .rdbpp
  | 0x0A => some .rdcmp
  | 0x0B => some .roword
  | 0x0C => some .stride
  | 0x0D => some .clip
  | 0x0E => some .fclear
  | 0x0F => some .rowseek
  | 0x10 => some .pixrd
  | 0x11 => some .gamma
  | 0x12 => some .reord
  | 0x13 => some .pixst
  | 0x14 => some .rowend
  | 0x15 => some .blank
  | 0x16 => some .finish
  | 0x1E => some .done
  | 0x1F => some .error
  | _ => none

/-- The operation each `PHASE` value names; the resting states name none (R11). -/
def Phase.operation : Phase → Option Instr
  | .idle => none
  | .hseek => some .hseek
  | .rdsig => some .rdsig
  | .skipa => some .skipa
  | .rdoff => some .rdoff
  | .skipb => some .skipb
  | .rdwid => some .rdwid
  | .rdhgt => some .rdhgt
  | .rdpln => some .rdpln
  | .rdbpp => some .rdbpp
  | .rdcmp => some .rdcmp
  | .roword => some .roword
  | .stride => some .stride
  | .clip => some .clip
  | .fclear => some .fclear
  | .rowseek => some .rowseek
  | .pixrd => some .pixrd
  | .gamma => some .gamma
  | .reord => some .reord
  | .pixst => some .pixst
  | .rowend => some .rowend
  | .blank => some .blank
  | .finish => some .finish
  | .done => none
  | .error => none

/-- Decode a `PHASE5` code (R72). -/
def decodePhase (c : BitVec 5) : Except DecodeError Instr :=
  match Phase.ofCode c with
  | none => .error .reservedPhase
  | some p =>
    match p.operation with
    | none => .error .restingPhase
    | some i => .ok i

/-! ## The `CMD32` word (R70, R71) -/

/-- Bits 7:0 (R70). -/
def commandOp (w : Word) : BitVec 8 := w.extractLsb' 0 8

/-- Bits 31:8 (R70). -/
def commandArg (w : Word) : BitVec 24 := w.extractLsb' 8 24

/-- Decode a command word by the opcode map R71; every word but `START` and an `FRD` is reserved (R83). -/
def decodeCommand (w : Word) : Except DecodeError Instr :=
  if commandOp w = 0x01 then
    if commandArg w = 0 then .ok .start else .error .reservedCommand
  else if commandOp w = 0x02 then .ok (.frd (commandArg w).toNat)
  else .error .reservedCommand

/-- The word of a command (R70): argument in bits 31:8, opcode in bits 7:0. -/
def commandWord (op : BitVec 8) (arg : Nat) : Word := BitVec.ofNat 24 arg ++ op

/-! ## The `BMPHDR34` header (R61, R62) -/

/-- `n` bytes from position `p`. -/
def slice (p n : Nat) (b : List Byte) : List Byte := (b.drop p).take n

/-- The ten fields at their positions (R61), each `le_N` of its bytes (R64). -/
def Header.ofBytes (b : List Byte) : Header where
  sig := le16 (slice 0 2 b)
  fileSize := le32 (slice 2 4 b)
  reserved := le32 (slice 6 4 b)
  dataOffset := le32 (slice 10 4 b)
  dibSize := le32 (slice 14 4 b)
  width := le32 (slice 18 4 b)
  height := le32 (slice 22 4 b)
  planes := le16 (slice 26 2 b)
  bitDepth := le16 (slice 28 2 b)
  compression := le32 (slice 30 4 b)

/-- The 34 bytes of a header in stream order (R61). -/
def Header.bytes (h : Header) : List Byte :=
  leBytes 2 h.sig.toNat ++ leBytes 4 h.fileSize.toNat ++ leBytes 4 h.reserved.toNat
    ++ leBytes 4 h.dataOffset.toNat ++ leBytes 4 h.dibSize.toNat ++ leBytes 4 h.width.toNat
    ++ leBytes 4 h.height.toNat ++ leBytes 2 h.planes.toNat ++ leBytes 2 h.bitDepth.toNat
    ++ leBytes 4 h.compression.toNat

/-- `MASK` of R62. -/
def headerMask : BitVec 272 :=
  0xFFFFFFFFFFFFFFFF000000000000000000000000000000000000000000000000FFFF

/-- `MATCH` of R62. -/
def headerMatch : BitVec 272 :=
  0x00000000001800010000000000000000000000000000000000000000000000004D42

/-- `H = le_34(S[0..33])` (R62). -/
def headerWord (b : List Byte) : BitVec 272 := BitVec.ofNat 272 (leNat b)

/-- Decode 34 header bytes: the accepted headers are instructions, the others are rejected by their first failing field in
stream order (R101). -/
def decodeHeader (b : List Byte) : Except DecodeError Instr :=
  if b.length = 34 then
    if (Header.ofBytes b).sig ≠ 0x4D42 then .error .badSignature
    else if (Header.ofBytes b).planes ≠ 1 then .error .badPlanes
    else if (Header.ofBytes b).bitDepth ≠ 24 then .error .badBitDepth
    else if (Header.ofBytes b).compression ≠ 0 then .error .badCompression
    else .ok (.bmp24 (Header.ofBytes b))
  else .error .headerLength

/-! ## All three encodings -/

/-- Decode any of the three encodings; total, rejecting by name. -/
def decode : Encoded → Except DecodeError Instr
  | .phase c => decodePhase c
  | .command w => decodeCommand w
  | .header b => decodeHeader b

/-- The encoding of an instruction: R71 for the commands, R72 for the operations, R61 for the header. -/
def encode : Instr → Encoded
  | .start => .command (commandWord 0x01 0)
  | .frd f => .command (commandWord 0x02 f)
  | .hseek => .phase 0x01
  | .rdsig => .phase 0x02
  | .skipa => .phase 0x03
  | .rdoff => .phase 0x04
  | .skipb => .phase 0x05
  | .rdwid => .phase 0x06
  | .rdhgt => .phase 0x07
  | .rdpln => .phase 0x08
  | .rdbpp => .phase 0x09
  | .rdcmp => .phase 0x0A
  | .roword => .phase 0x0B
  | .stride => .phase 0x0C
  | .clip => .phase 0x0D
  | .fclear => .phase 0x0E
  | .rowseek => .phase 0x0F
  | .pixrd => .phase 0x10
  | .gamma => .phase 0x11
  | .reord => .phase 0x12
  | .pixst => .phase 0x13
  | .rowend => .phase 0x14
  | .blank => .phase 0x15
  | .finish => .phase 0x16
  | .bmp24 h => .header h.bytes

/-- The encoding a row of spec/opcode_table.json stands for, its bits numbered from 0: up to 8 bits a `PHASE5` code, up to
32 a `CMD32` word, more a `BMPHDR34` header whose stream byte `i` is bits `8*i+7 : 8*i` (R62, log 31). -/
def encodedTableWord (nbits w : Nat) : Option Encoded :=
  if nbits ≤ 8 then if w < 2 ^ 5 then some (.phase (BitVec.ofNat 5 w)) else none
  else if nbits ≤ 32 then if w < 2 ^ 32 then some (.command (BitVec.ofNat 32 w)) else none
  else if w < 2 ^ 272 then some (.header (leBytes 34 w)) else none

/-- The instruction this decoder reads from an opcode-table word; none where it refuses. -/
def decodeTableWord (nbits w : Nat) : Option Instr :=
  match encodedTableWord nbits w with
  | none => none
  | some e =>
    match decode e with
    | .ok i => some i
    | .error _ => none

end Sys2Proof
end

