-- ==== Sys2Proof/Machine/State.lean ====
section
/-! DEFINITION. Everything the spec gives the machine (spec/10_state.md R10 to R20, R28), the configuration, and what
stands outside the block: the stream agent (R29) and the host's side. -/

namespace Sys2Proof.Machine

/-- Three bytes indexed by channel or by slot: `PIX`, `COR`, `OUT` (R15). -/
structure Triple where
  b0 : Byte
  b1 : Byte
  b2 : Byte
deriving DecidableEq, Repr

/-- `ROW_ORDER` (R17): 1 is `BottomUp`, 0 is `TopDown`. -/
inductive RowOrder
  | topDown
  | bottomUp
deriving DecidableEq, Repr

/-- An error cause (R146). -/
inductive Cause
  | fmtSignature
  | fmtPlanes
  | fmtBitDepth
  | fmtCompression
  | ioBusy
  | ioGeneric
  | geoWidthNegative
  | capFrames
deriving DecidableEq, Repr

/-- `FRAME` (R20): address and byte, addresses strictly rising, an unlisted address has no value (log 4). -/
abbrev Memory := List Host.Cell

/-- An `Err` answer of the stream agent: its 32-bit code, and where it leaves the agent's position, which R42 and R43 leave
unspecified (log 8). -/
structure ErrAnswer where
  code : Word
  pos : Pos
deriving DecidableEq, Repr

/-- The stream agent (R29), outside the block. -/
structure StreamAgent where
  /-- the stream's bytes `S[0 .. len-1]` -/
  bytes : List Byte
  /-- the agent's current position `spos` -/
  pos : Pos
  /-- the oracle of R44: what becomes of the coming requests, oldest first, `none` an ordinary answer (log 7) -/
  script : List (Option ErrAnswer)
  /-- the answer to a read past the end of the file (R43, log 9) -/
  eof : ErrAnswer
deriving DecidableEq, Repr

/-- A stream request of the trace (R57); a read is noted with the position of its first byte. -/
inductive Request
  | seek (p : Pos)
  | read (n : Nat) (p : Pos)
deriving DecidableEq, Repr

/-- What the outside does next (R7, log 11). -/
inductive Input
  /-- the host writes a word to `x[i]` -/
  | write (i : Nat) (w : Word)
  /-- the host reads `x[i]` -/
  | read (i : Nat)
  /-- `RESET` is asserted (R170) -/
  | reset
  /-- nothing: one sequencer step is taken -/
  | yield
  /-- the host polls `STATUS` until `BUSY = 0` (R75 `WAIT`, log 27) -/
  | wait
  /-- the ten header operations are taken as one step where the header is the accepted pattern (R75 `HDR`, log 17) -/
  | hdr
  /-- the stream's bytes change (R55, log 26) -/
  | restream (bytes : List Byte)
deriving DecidableEq, Repr

/-- What the last `FRD` or register read returned to the host (log 13). -/
inductive HostAnswer
  | nothing
  | word (w : Word)
  | bytes (b : List Byte)
deriving DecidableEq, Repr

/-- The state of the machine. -/
structure State where
  /-- R5, never written (log 1) -/
  config : Config
  /-- R11 -/
  phase : Phase
  /-- R12 -/
  row : Word
  /-- R12 -/
  col : Word
  /-- R13 -/
  sig : Half
  /-- R13 -/
  dataOffset : Word
  /-- R13 -/
  widthRaw : Word
  /-- R13 -/
  heightRaw : Word
  /-- R13 -/
  planes : Half
  /-- R13 -/
  bitDepth : Half
  /-- R13 -/
  compression : Word
  /-- R14 -/
  height : Word
  /-- R14 -/
  width : Word
  /-- R14 -/
  rowStride : BitVec 64
  /-- R14 -/
  clipH : Word
  /-- R14 -/
  frameTotal : Word
  /-- R15 -/
  pix : Triple
  /-- R15 -/
  cor : Triple
  /-- R15 -/
  out : Triple
  /-- R16 -/
  spos : Pos
  /-- R17 -/
  rowOrder : RowOrder
  /-- R17, R175 -/
  cmdErr : Bool
  /-- R18 -/
  errCode : BitVec 8
  /-- R18 -/
  errIo : Word
  /-- R18 -/
  errValue : Word
  /-- R18 -/
  errPos : Pos
  /-- R19 -/
  frameCount : Word
  /-- R20 -/
  frame : Memory
  /-- R29, outside the block -/
  stream : StreamAgent
  /-- the requests issued since the last accepted `START`, oldest first (the model's own, log 14) -/
  trace : List Request
  /-- what the outside does next, oldest first (the model's own, log 11) -/
  inputs : List Input
  /-- the host's side (the model's own, log 13) -/
  answer : HostAnswer
deriving DecidableEq, Repr

/-- The ways the model stops on an access the spec says cannot happen. Both are unreachable from the invariant. -/
inductive Fault
  /-- raised by `FRD` on a byte of `FRAME` that nothing has written since reset (R28, U10); safe -/
  | frameByteUnwritten
  /-- raised by `FCLEAR`, `PIXST`, `BLANK` and `FRD` on an address outside `FRAME` (R48, R49); safe -/
  | frameAddressOutOfRange
deriving DecidableEq, Repr

/-- The runs the model gives no meaning. -/
inductive Refusal
  /-- raised by `exec`'s arm of an instruction that has no meaning yet; safe -/
  | notModelled (mnemonic : String)
  /-- raised by `step` on a configuration that breaks R5 (R6, U14); safe -/
  | illegalConfiguration
deriving DecidableEq, Repr

/-- The outcome of an instruction or a step. -/
abbrev Outcome := Host.Outcome State Fault Refusal

/-- Three zero bytes. -/
def Triple.zero : Triple := ⟨0, 0, 0⟩

/-- A stream agent with an empty stream. DESIGN CHOICE (log 6, log 9), unsafe: it is outside the block (R29); the code 5 is
the arbitrary one of spec/95_test_vectors.md. -/
def StreamAgent.empty : StreamAgent where
  bytes := []
  pos := 0
  script := []
  eof := ⟨5, 0⟩

/-- The reset values of R28 for a configuration and a stream agent, which reset does not touch (R172). -/
def State.resetWith (c : Config) (a : StreamAgent) : State where
  config := c
  phase := .idle
  row := 0
  col := 0
  sig := 0
  dataOffset := 0
  widthRaw := 0
  heightRaw := 0
  planes := 0
  bitDepth := 0
  compression := 0
  height := 0
  width := 0
  rowStride := 0
  clipH := 0
  frameTotal := 0
  pix := Triple.zero
  cor := Triple.zero
  out := Triple.zero
  spos := 0
  rowOrder := .topDown
  cmdErr := false
  errCode := 0
  errIo := 0
  errValue := 0
  errPos := 0
  frameCount := 0
  frame := []
  stream := a
  trace := []
  inputs := []
  answer := .nothing

/-- The machine right after reset (R28, R170), with the configuration of log 2 and an empty stream (log 6). -/
def State.reset : State := State.resetWith Config.vectors StreamAgent.empty

end Sys2Proof.Machine
end

