-- ==== Sys2Proof/Machine/Ops.lean ====
section
/-! DEFINITION. The named operations over memory, the stream, the error registers and the whole state that the meanings
share: FRAME accesses (spec/20_memory.md R48), stream requests (R42 to R44), trap entry (spec/60_exceptions.md R152), the
way out of ERROR (R154), reset (R170). -/

namespace Sys2Proof.Machine

/-! ## FRAME -/

/-- One byte of memory; none where nothing is listed (log 4). -/
def Memory.read : Memory → Nat → Option Byte
  | [], _ => none
  | c :: m, a => if a = c.1 then some c.2 else Memory.read m a

/-- Store one byte, keeping addresses rising. -/
def Memory.write : Memory → Nat → Byte → Memory
  | [], a, b => [(a, b)]
  | c :: m, a, b =>
    if a < c.1 then (a, b) :: c :: m
    else if a = c.1 then (a, b) :: m
    else c :: Memory.write m a b

/-- `MemWrite(FRAME, a, n, v)`: the bytes of `v` at `a .. a+n-1`, in order (R48). -/
def Memory.writeBytes : Memory → Nat → List Byte → Memory
  | m, _, [] => m
  | m, a, b :: bs => Memory.writeBytes (m.write a b) (a + 1) bs

/-- `MemRead(FRAME, a, n)`: the bytes at `a .. a+n-1`, in order (R48); none if one of them has no value. -/
def Memory.readBytes : Memory → Nat → Nat → Option (List Byte)
  | _, _, 0 => some []
  | m, a, n + 1 =>
    match m.read a, m.readBytes (a + 1) n with
    | some b, some bs => some (b :: bs)
    | _, _ => none

/-- Every address listed is above `lo`. -/
def Memory.above (lo : Nat) (m : Memory) : Bool := m.all fun c => decide (lo < c.1)

/-- The canonical form: addresses strictly rising. -/
def Memory.wf : Memory → Bool
  | [] => true
  | c :: m => Memory.above c.1 m && Memory.wf m

/-- The number of bytes of `FRAME`: `MAX_FRAMES * L * 3` (R20). -/
def frameBytes (c : Config) : Nat := c.maxFrames.toNat * c.stripLength.toNat * 3

/-- A store of the sequencer to `FRAME`, then `k`; an address outside the array is a fault (R49, log 22). -/
def storeFrame (a : Nat) (v : List Byte) (k : State → Outcome) (s : State) : Outcome :=
  if a + v.length ≤ frameBytes s.config then k { s with frame := s.frame.writeBytes a v }
  else .fault .frameAddressOutOfRange

/-- A read of `FRAME` by `FRD`, then `k` on the bytes (R48). -/
def loadFrame (a n : Nat) (k : List Byte → State → Outcome) (s : State) : Outcome :=
  if a + n ≤ frameBytes s.config then
    match s.frame.readBytes a n with
    | some v => k v s
    | none => .fault .frameByteUnwritten
  else .fault .frameAddressOutOfRange

/-! ## The error registers -/

/-- `ERR_CODE` of each cause (R73, R146). -/
def Cause.code : Cause → BitVec 8
  | .fmtSignature => 0x01
  | .fmtPlanes => 0x02
  | .fmtBitDepth => 0x03
  | .fmtCompression => 0x04
  | .ioBusy => 0x10
  | .ioGeneric => 0x11
  | .geoWidthNegative => 0x20
  | .capFrames => 0x21

/-- Trap entry (R152): the four error registers, `FRAME_COUNT` and `PHASE`; nothing else changes. -/
def trapEntry (c : Cause) (value io : Word) (pos : Pos) (s : State) : State :=
  { s with
    errCode := c.code
    errValue := value
    errIo := io
    errPos := pos
    frameCount := 0
    phase := .error }

/-- The IOError variant of a stream code (R148): `IO_BUSY` for `BUSY_CODE`, else `IO_GENERIC`. -/
def ioCause (c : Config) (code : Word) : Cause :=
  if code = c.busyCode then .ioBusy else .ioGeneric

/-- `raise IOError(code, pos)` (R44, R152). -/
def raiseIo (code : Word) (pos : Pos) (s : State) : Outcome :=
  .next (trapEntry (ioCause s.config code) 0 code pos s)

/-- `raise` of a FormatError, GeometryError or CapacityError, `pos = SPOS` (R146, R152). -/
def raiseCheck (c : Cause) (value : Word) (s : State) : Outcome :=
  .next (trapEntry c value 0 s.spos s)

/-- The way out of `ERROR` (R154) and out of `IDLE`: what an accepted `START` writes (R81). `FRAME` is not touched. -/
def beginLoad (s : State) : State :=
  { s with
    sig := 0
    dataOffset := 0
    widthRaw := 0
    heightRaw := 0
    planes := 0
    bitDepth := 0
    compression := 0
    height := 0
    width := 0
    rowStride := 0
    clipH := 0
    frameTotal := 0
    row := 0
    col := 0
    spos := 0
    pix := Triple.zero
    cor := Triple.zero
    out := Triple.zero
    rowOrder := .topDown
    cmdErr := false
    errCode := 0
    errIo := 0
    errValue := 0
    errPos := 0
    frameCount := 0
    trace := []
    phase := .hseek }

/-- A refused command (R80): `CMDERR <- 1`, no other state changes. -/
def refuseCommand (s : State) : State := { s with cmdErr := true }

/-- `RESET` (R170): the values of R28; the configuration and the stream agent are not touched (R172), nor are the model's own
fields. The bytes of `FRAME` lose their values (log 5). -/
def assertReset (s : State) : State :=
  { State.resetWith s.config s.stream with
    trace := s.trace
    inputs := s.inputs
    answer := s.answer }

/-! ## Stream requests -/

/-- The code of an end-of-file answer: any code but `BUSY_CODE` (R43, log 9). -/
def eofCode (busy : Word) (a : StreamAgent) : Word :=
  if a.eof.code = busy then a.eof.code + 1 else a.eof.code

/-- The stream agent answers `StreamSeek(p)` (R42): the oracle decides whether it errs. -/
def StreamAgent.seek (p : Pos) (a : StreamAgent) : Except Word Unit × StreamAgent :=
  match a.script with
  | some e :: rest => (.error e.code, { a with script := rest, pos := e.pos })
  | none :: rest => (.ok (), { a with script := rest, pos := p })
  | [] => (.ok (), { a with pos := p })

/-- An answer to a read that the oracle lets pass (R43): all `n` bytes, or the end of the file. -/
def StreamAgent.serve (busy : Word) (n : Nat) (a : StreamAgent) : Except Word (List Byte) × StreamAgent :=
  if a.pos.toNat + n ≤ a.bytes.length then
    (.ok (slice a.pos.toNat n a.bytes), { a with pos := a.pos + BitVec.ofNat 64 n })
  else (.error (eofCode busy a), { a with pos := a.eof.pos })

/-- The stream agent answers `StreamRead(n)` (R43). -/
def StreamAgent.read (busy : Word) (n : Nat) (a : StreamAgent) : Except Word (List Byte) × StreamAgent :=
  match a.script with
  | some e :: rest => (.error e.code, { a with script := rest, pos := e.pos })
  | none :: rest => StreamAgent.serve busy n { a with script := rest }
  | [] => StreamAgent.serve busy n a

/-- `StreamSeek(p)` by an operation: an `Err` answer is raised at once with `pos = p` (R44, R90 b), else `SPOS <- p`, then `k`. -/
def seekThen (p : Pos) (k : State → Outcome) (s : State) : Outcome :=
  match s.stream.seek p with
  | (.error code, a) => raiseIo code p { s with stream := a, trace := s.trace ++ [.seek p] }
  | (.ok _, a) => k { s with stream := a, trace := s.trace ++ [.seek p], spos := p }

/-- `StreamRead(n)` by an operation: an `Err` answer is raised at once with `pos = SPOS` (R44, R90 b), else `SPOS <- SPOS + n`
(R90 c), then `k` on the bytes. -/
def readThen (n : Nat) (k : List Byte → State → Outcome) (s : State) : Outcome :=
  match s.stream.read s.config.busyCode n with
  | (.error code, a) => raiseIo code s.spos { s with stream := a, trace := s.trace ++ [.read n s.spos] }
  | (.ok b, a) =>
    k b { s with stream := a, trace := s.trace ++ [.read n s.spos], spos := s.spos + BitVec.ofNat 64 n }

/-- A check of a latched value: the next operation, or a trap (R90 c). -/
def checkThen (ok : Bool) (c : Cause) (value : Word) (p : Phase) (s : State) : Outcome :=
  if ok then .next { s with phase := p } else raiseCheck c value s

/-- `PHASE <- T`. -/
def goto (p : Phase) (s : State) : Outcome := .next { s with phase := p }

end Sys2Proof.Machine
end

