-- ==== Sys2Proof/Machine/Operands.lean ====
section
/-! DEFINITION. The operand forms: signed readings (spec/00_scope.md R9), row geometry (spec/42_geometry_clip.md R107,
R108), seek targets (spec/43_row_decode.md R116), table look-up and channel order (spec/44_color_reorder_store.md R126,
R129), FRAME addresses (spec/20_memory.md R48). Arithmetic is on natural numbers, without wrap (R110). -/

namespace Sys2Proof.Machine

/-- `sint32(u)` (R9): two's complement (G3). -/
def sint32 (u : Word) : Int :=
  if u.toNat < 2 ^ 31 then (u.toNat : Int) else (u.toNat : Int) - 2 ^ 32

/-- `HEIGHT` of a raw height: its magnitude (R106). -/
def heightMagnitude (raw : Word) : Word :=
  if sint32 raw > 0 then raw
  else if sint32 raw < 0 then BitVec.ofNat 32 (2 ^ 32 - raw.toNat)
  else 0

/-- `((3*WIDTH + 3) div 4) * 4` (R107). -/
def rowStrideOf (width : Nat) : Nat := (3 * width + 3) / 4 * 4

/-- The blank terminal frame counts one when `LOOP = 0` (R108). -/
def blankFrames (c : Config) : Nat := if c.loop then 0 else 1

/-- `WIDTH + (LOOP = 0 ? 1 : 0)` (R108). -/
def frameTotalOf (c : Config) (width : Word) : Nat := width.toNat + blankFrames c

/-- `min(HEIGHT, L)` (R108). -/
def clippedHeight (c : Config) (height : Word) : Nat := min height.toNat c.stripLength.toNat

/-- The source row index of the display row being read (R116). -/
def sourceRow (s : State) : Nat :=
  match s.rowOrder with
  | .bottomUp => s.height.toNat - 1 - s.row.toNat
  | .topDown => s.row.toNat

/-- `DATA_OFFSET + src * ROW_STRIDE` (R116). -/
def seekTarget (s : State) : Nat := s.dataOffset.toNat + sourceRow s * s.rowStride.toNat

/-- `LUT[v]` (R50, R126). -/
def lutAt (c : Config) (v : Byte) : Byte := c.lut[v.toNat]'(v.isLt)

/-- The byte of a triple for a stored channel: 0 blue, 1 green, 2 red (R15, R69). -/
def Triple.channel (t : Triple) : Channel → Byte
  | .blue => t.b0
  | .green => t.b1
  | .red => t.b2

/-- The three bytes in slot order (R68). -/
def Triple.bytes (t : Triple) : List Byte := [t.b0, t.b1, t.b2]

/-- The triple of three stream bytes, blue first (R65, R117). -/
def Triple.ofBytes (b : List Byte) : Triple := ⟨b.getD 0 0, b.getD 1 0, b.getD 2 0⟩

/-- Each byte corrected by the one table (R126). -/
def Triple.corrected (c : Config) (t : Triple) : Triple := ⟨lutAt c t.b0, lutAt c t.b1, lutAt c t.b2⟩

/-- `OUT[k] <- COR[ORDER[k]]` (R129). -/
def Triple.reordered (c : Config) (t : Triple) : Triple :=
  ⟨t.channel c.order.slot0, t.channel c.order.slot1, t.channel c.order.slot2⟩

/-- `A(f, p, 0) = (f*L + p)*3` (R48). -/
def frameAddress (c : Config) (f p : Nat) : Nat := (f * c.stripLength.toNat + p) * 3

/-- `L - 1 - ROW`: the strip position of the display row (R130). -/
def stripPosition (s : State) : Nat := s.config.stripLength.toNat - 1 - s.row.toNat

/-- The address `PIXST` stores to (R130). -/
def pixelAddress (s : State) : Nat := frameAddress s.config s.col.toNat (stripPosition s)

/-- The bytes of one frame: `3*L` (R68). -/
def frameLength (c : Config) : Nat := 3 * c.stripLength.toNat

/-- `n` zero bytes. -/
def zeros (n : Nat) : List Byte := List.replicate n 0

/-- `zext_32` of a 16-bit latch (R9, R92). -/
def zext32 (v : Half) : Word := BitVec.ofNat 32 v.toNat

end Sys2Proof.Machine
end

