-- ==== Sys2Proof/Machine/Colour.lean ====
section
/-! DEFINITION. The meanings of the colour correction, channel reorder and frame store operations
(spec/44_color_reorder_store.md R126, R129, R130). -/

namespace Sys2Proof.Machine

/-- `GAMMA` (R126). -/
def execGamma (s : State) : Outcome := goto .reord { s with cor := s.pix.corrected s.config }

/-- `REORD` (R129). -/
def execReord (s : State) : Outcome := goto .pixst { s with out := s.cor.reordered s.config }

/-- The next pixel of the row, or its end (R130). -/
def nextPixel (s : State) : Outcome :=
  goto (if s.col.toNat + 1 < s.width.toNat then .pixrd else .rowend) { s with col := BitVec.ofNat 32 (s.col.toNat + 1) }

/-- `PIXST` (R130). -/
def execPixst (s : State) : Outcome := storeFrame (pixelAddress s) s.out.bytes nextPixel s

end Sys2Proof.Machine
end

