-- ==== Sys2Proof/Machine/Flags.lean ====
section
/-! DEFINITION. The flags of spec/10_state.md R17: `ROW_ORDER` from the sign of the height (R106), the derived `BUSY`,
`DONE`, `ERROR`, and the register images `STATUS` (R23) and `CFG_FLAGS` (R24). -/

namespace Sys2Proof.Machine

/-- `ROW_ORDER` of a raw height (R106); a zero height gives `BottomUp` (D8). -/
def rowOrderOf (raw : Word) : RowOrder := if sint32 raw < 0 then .topDown else .bottomUp

/-- The bit of a row order (R17). -/
def RowOrder.bit : RowOrder → Bool
  | .bottomUp => true
  | .topDown => false

/-- `BUSY`: `PHASE` is a busy code, every code but the three resting states (R11, R17). -/
def isBusy (p : Phase) : Bool := !(p == .idle || p == .done || p == .error)

/-- `DONE` (R17). -/
def isDone (p : Phase) : Bool := p == .done

/-- `ERROR` (R17). -/
def isError (p : Phase) : Bool := p == .error

/-- A flag at bit `n` of a register. -/
def flagAt (n : Nat) (b : Bool) : Nat := if b then 2 ^ n else 0

/-- `STATUS` (R23). -/
def statusWord (s : State) : Word :=
  BitVec.ofNat 32 (s.phase.code.toNat + flagAt 8 (isBusy s.phase) + flagAt 9 (isDone s.phase)
    + flagAt 10 (isError s.phase) + flagAt 11 s.rowOrder.bit + flagAt 12 s.cmdErr)

/-- The 2-bit code of a channel (R69). -/
def channelCode : Channel → Nat
  | .blue => 0
  | .green => 1
  | .red => 2

/-- `CFG_FLAGS` (R24). -/
def cfgFlagsWord (c : Config) : Word :=
  BitVec.ofNat 32 (flagAt 0 c.loop + channelCode c.order.slot0 * 2 ^ 8 + channelCode c.order.slot1 * 2 ^ 10
    + channelCode c.order.slot2 * 2 ^ 12)

end Sys2Proof.Machine
end

