-- ==== Sys2Proof/Machine/Commands.lean ====
section
/-! DEFINITION. The meanings of the host commands `START` and `FRD` (spec/40_host_commands.md R81, R82). -/

namespace Sys2Proof.Machine

/-- `START` (R81): accepted in `IDLE` and `ERROR`, refused while busy and in `DONE`. -/
def execStart (s : State) : Outcome :=
  if s.phase = .idle ∨ s.phase = .error then .next (beginLoad s) else .next (refuseCommand s)

/-- `FRD f` (R82): accepted in `DONE` for `f < FRAME_COUNT`; the host receives the `3*L` bytes of frame `f`, no state of the
block changes. Refused otherwise, and no bytes are returned. -/
def execFrd (f : Nat) (s : State) : Outcome :=
  if s.phase = .done ∧ f < s.frameCount.toNat then
    loadFrame (f * frameLength s.config) (frameLength s.config) (fun v t => .next { t with answer := .bytes v }) s
  else .next { refuseCommand s with answer := .nothing }

end Sys2Proof.Machine
end

