-- ==== Sys2Proof/Machine/Finish.lean ====
section
/-! DEFINITION. The meanings of the blank frame and finish operations (spec/45_frame_finish.md R136, R137). -/

namespace Sys2Proof.Machine

/-- `BLANK` (R136): frame `WIDTH` is zeroed unless looping. -/
def execBlank (s : State) : Outcome :=
  if s.config.loop then goto .finish s
  else storeFrame (s.width.toNat * frameLength s.config) (zeros (frameLength s.config)) (goto .finish) s

/-- `FINISH` (R137): publish the FrameSequence. -/
def execFinish (s : State) : Outcome := goto .done { s with frameCount := s.frameTotal }

end Sys2Proof.Machine
end

