-- ==== Sys2Proof/Machine/Geometry.lean ====
section
/-! DEFINITION. The meanings of the geometry and clip operations (spec/42_geometry_clip.md R106 to R109). -/

namespace Sys2Proof.Machine

/-- `ROWORD` (R106). -/
def execRoword (s : State) : Outcome :=
  goto .stride { s with rowOrder := rowOrderOf s.heightRaw, height := heightMagnitude s.heightRaw }

/-- `STRIDE` (R107). -/
def execStride (s : State) : Outcome :=
  if sint32 s.widthRaw < 0 then raiseCheck .geoWidthNegative s.widthRaw s
  else
    goto .clip
      { s with
        width := s.widthRaw
        rowStride := BitVec.ofNat 64 (rowStrideOf s.widthRaw.toNat) }

/-- What `CLIP` writes before its check (R108). -/
def clipRegisters (s : State) : State :=
  { s with
    clipH := BitVec.ofNat 32 (clippedHeight s.config s.height)
    frameTotal := BitVec.ofNat 32 (frameTotalOf s.config s.width) }

/-- `CLIP` (R108). -/
def execClip (s : State) : Outcome :=
  if s.config.maxFrames.toNat < frameTotalOf s.config s.width then
    raiseCheck .capFrames (BitVec.ofNat 32 (frameTotalOf s.config s.width)) (clipRegisters s)
  else goto .fclear { clipRegisters s with row := 0 }

/-- The row loop begins, unless there is no row (R109). -/
def beginRows (s : State) : Outcome := goto (if s.clipH = 0 then .blank else .rowseek) s

/-- `FCLEAR` (R109): frames `0 .. WIDTH-1`, which are contiguous from address 0 (R48), are zeroed. -/
def execFclear (s : State) : Outcome := storeFrame 0 (zeros (s.width.toNat * frameLength s.config)) beginRows s

end Sys2Proof.Machine
end

