-- ==== Sys2Proof/Machine/HeaderParse.lean ====
section
/-! DEFINITION. The meanings of the ten header parse operations (spec/41_header_parse.md R91 to R100) and of `BMP24`, the
accepted header parsed whole (R62, R75 `HDR`, R101). -/

namespace Sys2Proof.Machine

/-- `HSEEK` (R91). -/
def execHseek (s : State) : Outcome := seekThen 0 (goto .rdsig) s

/-- `SIG` latched, both bytes compared (R92). -/
def latchSignature (b : List Byte) (s : State) : Outcome :=
  checkThen (b.getD 0 0 == 0x42 && b.getD 1 0 == 0x4D) .fmtSignature (zext32 (le16 b)) .skipa { s with sig := le16 b }

/-- `RDSIG` (R92). -/
def execRdsig (s : State) : Outcome := readThen 2 latchSignature s

/-- `SKIPA` (R93): eight bytes read and discarded. -/
def execSkipa (s : State) : Outcome := readThen 8 (fun _ => goto .rdoff) s

/-- `DATA_OFFSET` latched (R94). -/
def latchDataOffset (b : List Byte) (s : State) : Outcome := goto .skipb { s with dataOffset := le32 b }

/-- `RDOFF` (R94). -/
def execRdoff (s : State) : Outcome := readThen 4 latchDataOffset s

/-- `SKIPB` (R95): four bytes read and discarded. -/
def execSkipb (s : State) : Outcome := readThen 4 (fun _ => goto .rdwid) s

/-- `WIDTH_RAW` latched (R96). -/
def latchWidth (b : List Byte) (s : State) : Outcome := goto .rdhgt { s with widthRaw := le32 b }

/-- `RDWID` (R96). -/
def execRdwid (s : State) : Outcome := readThen 4 latchWidth s

/-- `HEIGHT_RAW` latched (R97). -/
def latchHeight (b : List Byte) (s : State) : Outcome := goto .rdpln { s with heightRaw := le32 b }

/-- `RDHGT` (R97). -/
def execRdhgt (s : State) : Outcome := readThen 4 latchHeight s

/-- `PLANES` latched and compared (R98). -/
def latchPlanes (b : List Byte) (s : State) : Outcome :=
  checkThen (le16 b == 1) .fmtPlanes (zext32 (le16 b)) .rdbpp { s with planes := le16 b }

/-- `RDPLN` (R98). -/
def execRdpln (s : State) : Outcome := readThen 2 latchPlanes s

/-- `BIT_DEPTH` latched and compared (R99). -/
def latchBitDepth (b : List Byte) (s : State) : Outcome :=
  checkThen (le16 b == 24) .fmtBitDepth (zext32 (le16 b)) .rdcmp { s with bitDepth := le16 b }

/-- `RDBPP` (R99). -/
def execRdbpp (s : State) : Outcome := readThen 2 latchBitDepth s

/-- `COMPRESSION` latched and compared (R100). -/
def latchCompression (b : List Byte) (s : State) : Outcome :=
  checkThen (le32 b == 0) .fmtCompression (le32 b) .roword { s with compression := le32 b }

/-- `RDCMP` (R100). -/
def execRdcmp (s : State) : Outcome := readThen 4 latchCompression s

/-- Go on with the operation of phase `p` if the one before it led there; a trap or a stop ends the sequence. -/
def andThen (o : Outcome) (p : Phase) (k : State → Outcome) : Outcome :=
  match o with
  | .next s => if s.phase = p then k s else .next s
  | .fault r => .fault r
  | .refused r => .refused r

/-- `HDR` (R75): the ten header operations in order. -/
def headerOperations (s : State) : Outcome :=
  andThen (andThen (andThen (andThen (andThen (andThen (andThen (andThen (andThen (execHseek s)
    .rdsig execRdsig) .skipa execSkipa) .rdoff execRdoff) .skipb execSkipb) .rdwid execRdwid)
    .rdhgt execRdhgt) .rdpln execRdpln) .rdbpp execRdbpp) .rdcmp execRdcmp

/-- The stream begins with the header `h` (log 18). -/
def placeHeader (h : Header) (s : State) : State :=
  { s with stream := { s.stream with bytes := h.bytes ++ s.stream.bytes.drop 34 } }

/-- `BMP24` (R62, R101): the header operations run on a stream that begins with the header `h` (log 17, log 18). -/
def execBmp24 (h : Header) (s : State) : Outcome := headerOperations (placeHeader h s)

end Sys2Proof.Machine
end

