-- ==== Sys2Proof/Machine/RowDecode.lean ====
section
/-! DEFINITION. The meanings of the row decode operations (spec/43_row_decode.md R116 to R118). -/

namespace Sys2Proof.Machine

/-- The row begins (R116): at once over where it has no pixels. -/
def beginRow (s : State) : Outcome := goto (if s.width = 0 then .rowend else .pixrd) { s with col := 0 }

/-- `ROWSEEK` (R116). -/
def execRowseek (s : State) : Outcome := seekThen (BitVec.ofNat 64 (seekTarget s)) beginRow s

/-- `PIX` latched (R117). -/
def latchPixel (b : List Byte) (s : State) : Outcome := goto .gamma { s with pix := Triple.ofBytes b }

/-- `PIXRD` (R117). -/
def execPixrd (s : State) : Outcome := readThen 3 latchPixel s

/-- `ROWEND` (R118). -/
def execRowend (s : State) : Outcome :=
  goto (if s.row.toNat + 1 < s.clipH.toNat then .rowseek else .blank)
    { s with row := BitVec.ofNat 32 (s.row.toNat + 1) }

end Sys2Proof.Machine
end

