-- ==== Sys2Proof/Machine/Dispatch.lean ====
section
/-! DEFINITION. One arm per constructor of `Instr`: the meaning of each. -/

namespace Sys2Proof.Machine

def exec (i : Instr) (s : State) : Host.Outcome State Fault Refusal :=
  match i with
  | .start => Sys2Proof.Machine.execStart s
  | .frd f => Sys2Proof.Machine.execFrd f s
  | .hseek => Sys2Proof.Machine.execHseek s
  | .rdsig => Sys2Proof.Machine.execRdsig s
  | .skipa => Sys2Proof.Machine.execSkipa s
  | .rdoff => Sys2Proof.Machine.execRdoff s
  | .skipb => Sys2Proof.Machine.execSkipb s
  | .rdwid => Sys2Proof.Machine.execRdwid s
  | .rdhgt => Sys2Proof.Machine.execRdhgt s
  | .rdpln => Sys2Proof.Machine.execRdpln s
  | .rdbpp => Sys2Proof.Machine.execRdbpp s
  | .rdcmp => Sys2Proof.Machine.execRdcmp s
  | .roword => Sys2Proof.Machine.execRoword s
  | .stride => Sys2Proof.Machine.execStride s
  | .clip => Sys2Proof.Machine.execClip s
  | .fclear => Sys2Proof.Machine.execFclear s
  | .rowseek => Sys2Proof.Machine.execRowseek s
  | .pixrd => Sys2Proof.Machine.execPixrd s
  | .gamma => Sys2Proof.Machine.execGamma s
  | .reord => Sys2Proof.Machine.execReord s
  | .pixst => Sys2Proof.Machine.execPixst s
  | .rowend => Sys2Proof.Machine.execRowend s
  | .blank => Sys2Proof.Machine.execBlank s
  | .finish => Sys2Proof.Machine.execFinish s
  | .bmp24 h => Sys2Proof.Machine.execBmp24 h s

end Sys2Proof.Machine
end

