-- ==== Sys2Proof/Machine/HostRegs.lean ====
section
/-! DEFINITION. The host register file of spec/10_state.md R22 to R27, read. -/

namespace Sys2Proof.Machine

/-- Bits 31:0 of a 64-bit register. -/
def loWord (v : BitVec 64) : Word := v.extractLsb' 0 32

/-- Bits 63:32 of a 64-bit register. -/
def hiWord (v : BitVec 64) : Word := v.extractLsb' 32 32

/-- `LUT_WIN[j]` (R25): four table bytes, the lowest index least significant. -/
def lutWindow (c : Config) (j : Nat) : Word :=
  le32 [lutAt c (BitVec.ofNat 8 (4 * j)), lutAt c (BitVec.ofNat 8 (4 * j + 1)),
    lutAt c (BitVec.ofNat 8 (4 * j + 2)), lutAt c (BitVec.ofNat 8 (4 * j + 3))]

/-- The rows of R22 below the table window: index and content. `CMD` reads 0. -/
def registerFile (s : State) : List (Nat × Word) :=
  [(0x00, 0),
    (0x01, statusWord s),
    (0x02, BitVec.ofNat 32 s.errCode.toNat),
    (0x03, s.errIo),
    (0x04, s.errValue),
    (0x05, loWord s.errPos),
    (0x06, hiWord s.errPos),
    (0x07, s.frameCount),
    (0x08, s.config.stripLength),
    (0x09, cfgFlagsWord s.config),
    (0x0A, s.config.speed),
    (0x0B, s.config.maxFrames),
    (0x0C, s.config.busyCode),
    (0x10, zext32 s.sig),
    (0x11, s.dataOffset),
    (0x12, s.widthRaw),
    (0x13, s.heightRaw),
    (0x14, zext32 s.planes),
    (0x15, zext32 s.bitDepth),
    (0x16, s.compression),
    (0x18, s.height),
    (0x19, loWord s.rowStride),
    (0x1A, hiWord s.rowStride),
    (0x1B, s.clipH),
    (0x1C, s.frameTotal),
    (0x1D, s.width),
    (0x1E, s.row),
    (0x1F, s.col),
    (0x20, loWord s.spos),
    (0x21, hiWord s.spos)]

/-- `x[i]` for an index below or above the table window: the row of R22, else 0 (R26). -/
def readRow (s : State) (i : Nat) : Word := ((registerFile s).lookup i).getD 0

/-- `x[i]` read (R22, R27): no side effect, the value of the moment. -/
def readReg (s : State) (i : Nat) : Word :=
  if 0x40 ≤ i ∧ i ≤ 0x7F then lutWindow s.config (i - 0x40) else readRow s i

end Sys2Proof.Machine
end

