-- ==== Sys2Proof/Machine/Schedule.lean ====
section
/-! DEFINITION. Who moves next (spec/00_scope.md R7): the sequencer's step, the host's accesses (spec/10_state.md R22 to
R27, spec/40_host_commands.md R83), RESET (spec/70_reset_and_hazards.md R170), a change of the stream (R55). `step` of
Step.lean only calls these. -/

namespace Sys2Proof.Machine

/-- One sequencer step (R7 a): the operation `PHASE` names. In a resting state the sequencer has no step (R140, log 12). -/
def sequencerStep (s : State) : Outcome :=
  match decode (.phase s.phase.code) with
  | .ok i => exec i s
  | .error _ => .next s

/-- The host writes `w` to `x[0]`: a command (R81, R82), or a reserved word, refused in every state (R83). -/
def commandWrite (w : Word) (s : State) : Outcome :=
  match decode (.command w) with
  | .ok i => exec i s
  | .error _ => .next (refuseCommand s)

/-- The host writes `w` to `x[i]`: only `x[0]` is writable, a write elsewhere changes nothing (R22, R26). -/
def hostWrite (i : Nat) (w : Word) (s : State) : Outcome :=
  if i = 0 then commandWrite w s else .next s

/-- The host reads `x[i]`: no side effect on the block (R27). -/
def hostRead (i : Nat) (s : State) : State := { s with answer := .word (readReg s i) }

/-- The stream's bytes change from outside (R55); the agent's position stays (log 26). -/
def replaceStream (b : List Byte) (s : State) : State := { s with stream := { s.stream with bytes := b } }

/-- The header operations as one step where they are due and the stream's first 34 bytes are the accepted pattern; one
sequencer step otherwise (log 17). -/
def headerStep (s : State) : Outcome :=
  if s.phase = .hseek then
    match decode (.header (slice 0 34 s.stream.bytes)) with
    | .ok i => exec i s
    | .error _ => sequencerStep s
  else sequencerStep s

/-- The host polls `STATUS` until `BUSY = 0` (R75 `WAIT`): while busy the poll stays pending and the sequencer steps. -/
def waitStep (s : State) (rest : List Input) : Outcome :=
  if isBusy s.phase then sequencerStep s else .next { s with inputs := rest }

/-- What happens next, by the oldest input; with none left the sequencer runs on (log 11). -/
def nextEvent (s : State) : Outcome :=
  match s.inputs with
  | [] => sequencerStep s
  | .yield :: rest => sequencerStep { s with inputs := rest }
  | .wait :: rest => waitStep s rest
  | .hdr :: rest => headerStep { s with inputs := rest }
  | .write i w :: rest => hostWrite i w { s with inputs := rest }
  | .read i :: rest => .next (hostRead i { s with inputs := rest })
  | .reset :: rest => .next (assertReset { s with inputs := rest })
  | .restream b :: rest => .next (replaceStream b { s with inputs := rest })

/-- The state in which the instruction of encoding `e` is the next one to run: a `PHASE` code in `PHASE` with a sequencer
turn due, a command word at the host's hand, a header at the start of the stream with the header operations due. A reserved
`PHASE` code, which `PHASE` cannot hold (R72), places nothing. -/
def placeEncoded (e : Encoded) (s : State) : State :=
  match e with
  | .phase c =>
    match Phase.ofCode c with
    | some p => { s with phase := p, inputs := .yield :: s.inputs }
    | none => s
  | .command w => { s with inputs := .write 0 w :: s.inputs }
  | .header b =>
    { s with
      phase := .hseek
      stream := { s.stream with bytes := b ++ s.stream.bytes.drop 34 }
      inputs := .hdr :: s.inputs }

/-- The same for a word of spec/opcode_table.json. -/
def placeTableWord (nbits w : Nat) (s : State) : State :=
  match encodedTableWord nbits w with
  | some e => placeEncoded e s
  | none => s

end Sys2Proof.Machine
end

