-- ==== Sys2Proof/Machine/Step.lean ====
section
/-! DEFINITION. One step of the machine, and how the host of the model places an instruction where the next step takes it. -/

namespace Sys2Proof.Machine

/-- One step: the next event, on a legal configuration (R5); an illegal one is no BMPFP and is refused (R6, U14, log 3). -/
def step (s : State) : Host.Outcome State Fault Refusal :=
  if s.config.legal then nextEvent s else .refused .illegalConfiguration

/-- `s` with the instruction of an opcode-table word where `step` takes its next instruction from (log 30). -/
def State.withFetchWord (s : State) (nbits w : Nat) : State := placeTableWord nbits w s

end Sys2Proof.Machine
end

