-- ==== Sys2Proof/Safety.lean ====
section
/-! DEFINITION. The terms claims are stated in: what the next request meets (spec/20_memory.md R42 to R44), what a trap
leaves (spec/60_exceptions.md R146, R152), the invariant every step keeps, the transition table
(spec/45_frame_finish.md R140) and the load as one function (R138). -/

namespace Sys2Proof.Machine

/-! ## The next stream request -/

/-- The oracle lets the next request pass (R44). -/
def State.requestPasses (s : State) : Prop := s.stream.script.head?.join = none

/-- The oracle makes the next request err with `e` (R44). -/
def State.requestErrs (s : State) (e : ErrAnswer) : Prop := s.stream.script.head?.join = some e

/-- The stream goes on with the bytes `b` at the agent's position (R43). -/
def State.nextBytes (s : State) (b : List Byte) : Prop := b <+: s.stream.bytes.drop s.stream.pos.toNat

/-- Fewer than `n` bytes remain before the end of the file (R43). -/
def State.shortOf (s : State) (n : Nat) : Prop := s.stream.bytes.length < s.stream.pos.toNat + n

/-- The request `r` has been answered and the agent stands at `p`. -/
def State.afterRequest (r : Request) (p : Pos) (s : State) : State :=
  { s with
    stream := { s.stream with pos := p, script := s.stream.script.tail }
    trace := s.trace ++ [r] }

/-- A read of `n` bytes has been served: both positions have moved by `n` (R16, R43). -/
def State.served (n : Nat) (s : State) : State :=
  { s.afterRequest (.read n s.spos) (s.stream.pos + BitVec.ofNat 64 n) with spos := s.spos + BitVec.ofNat 64 n }

/-- What a trap leaves (R152), in numbers of R146. -/
def State.trapped (code : BitVec 8) (value io : Word) (pos : Pos) (s : State) : State :=
  { s with
    errCode := code
    errValue := value
    errIo := io
    errPos := pos
    frameCount := 0
    phase := .error }

/-- The code of an IOError (R146, R148). -/
def ioErrCode (c : Config) (code : Word) : BitVec 8 := if code = c.busyCode then 0x10 else 0x11

/-- An `Err` answer raises IOError at once (R44, R90 b): the request `r` was made about position `pos`. -/
def raisesIoOnErr (i : Instr) (r : State → Request) (pos : State → Pos) : Prop :=
  ∀ s e, s.requestErrs e →
    exec i s = .next ((s.afterRequest (r s) e.pos).trapped (ioErrCode s.config e.code) 0 e.code (pos s))

/-- A read of `n` bytes past the end of the file raises the generic IOError (R43), at the position of the first byte asked. -/
def raisesIoAtEof (i : Instr) (n : Nat) : Prop :=
  ∀ s, s.requestPasses → s.shortOf n →
    ∃ code, code ≠ s.config.busyCode ∧
      exec i s = .next ((s.afterRequest (.read n s.spos) s.stream.eof.pos).trapped 0x11 0 code s.spos)

/-- Both ways a read of `n` bytes raises IOError. -/
def readRaises (i : Instr) (n : Nat) : Prop :=
  raisesIoOnErr i (fun s => .read n s.spos) (fun s => s.spos) ∧ raisesIoAtEof i n

end Sys2Proof.Machine

/-! ## Phases -/

namespace Sys2Proof

/-- Where the stream stands in the header phases (R57, R61). -/
def Phase.headerPosition : Phase → Option Nat
  | .hseek => some 0
  | .rdsig => some 0
  | .skipa => some 2
  | .rdoff => some 10
  | .skipb => some 14
  | .rdwid => some 18
  | .rdhgt => some 22
  | .rdpln => some 26
  | .rdbpp => some 28
  | .rdcmp => some 30
  | .roword => some 34
  | .stride => some 34
  | .clip => some 34
  | .fclear => some 34
  | _ => none

/-- The place of a phase in execution order (its code, R72): `IDLE` 0, the operations 1 to 22, `DONE` 30, `ERROR` 31. -/
def Phase.rank (p : Phase) : Nat := p.code.toNat

/-- Phases reached only after the operation of rank `n` has completed: later operations, and `DONE`. -/
def Phase.past (n : Nat) (p : Phase) : Prop := n < p.rank ∧ p ≠ .error

/-- The row loop (R140). -/
def Phase.inRow : Phase → Prop
  | .rowseek | .pixrd | .gamma | .reord | .pixst | .rowend => True
  | _ => False

/-- The pixel loop (R140). -/
def Phase.inPixel : Phase → Prop
  | .pixrd | .gamma | .reord | .pixst => True
  | _ => False

/-- The successors of each `PHASE` by a sequencer step (R140). -/
def Phase.successors : Phase → List Phase
  | .idle => [.idle]
  | .hseek => [.rdsig, .error]
  | .rdsig => [.skipa, .error]
  | .skipa => [.rdoff, .error]
  | .rdoff => [.skipb, .error]
  | .skipb => [.rdwid, .error]
  | .rdwid => [.rdhgt, .error]
  | .rdhgt => [.rdpln, .error]
  | .rdpln => [.rdbpp, .error]
  | .rdbpp => [.rdcmp, .error]
  | .rdcmp => [.roword, .error]
  | .roword => [.stride]
  | .stride => [.clip, .error]
  | .clip => [.fclear, .error]
  | .fclear => [.rowseek, .blank]
  | .rowseek => [.pixrd, .rowend, .error]
  | .pixrd => [.gamma, .error]
  | .gamma => [.reord]
  | .reord => [.pixst]
  | .pixst => [.pixrd, .rowend]
  | .rowend => [.rowseek, .blank]
  | .blank => [.finish]
  | .finish => [.done]
  | .done => [.done]
  | .error => [.error]

end Sys2Proof

/-! ## The invariant -/

namespace Sys2Proof.Machine

/-- Every address below `n` holds a value. -/
def Memory.filled (m : Memory) (n : Nat) : Prop := ∀ a, a < n → ∃ b, m.read a = some b

/-- What holds of every state a run reaches. -/
structure State.Inv (s : State) : Prop where
  /-- R5 -/
  legal : s.config.legal = true
  /-- the canonical form of `FRAME` -/
  frameWf : s.frame.wf = true
  /-- `FRAME` has `MAX_FRAMES * L * 3` bytes (R20) -/
  frameInRange : ∀ c ∈ s.frame, c.1 < frameBytes s.config
  /-- R19 -/
  countOnlyInDone : s.phase ≠ .done → s.frameCount = 0
  /-- R18 -/
  noErrorOutsideError : s.phase ≠ .error → s.errCode = 0 ∧ s.errIo = 0 ∧ s.errValue = 0 ∧ s.errPos = 0
  /-- R73 -/
  errorHasCause : s.phase = .error → ∃ c : Cause, s.errCode = c.code
  /-- R101: the checks that have been passed hold of the latches -/
  signatureHolds : s.phase.past 2 → s.sig = 0x4D42
  planesHold : s.phase.past 8 → s.planes = 1
  bitDepthHolds : s.phase.past 9 → s.bitDepth = 24
  compressionHolds : s.phase.past 10 → s.compression = 0
  /-- R57 -/
  headerPlace : ∀ n, s.phase.headerPosition = some n → s.spos = BitVec.ofNat 64 n
  /-- R106 -/
  heightSet : s.phase.past 11 →
    s.height.toNat = s.heightRaw.toInt.natAbs ∧ (s.rowOrder = .topDown ↔ s.heightRaw.toInt < 0)
  /-- R107 -/
  widthSet : s.phase.past 12 →
    s.width = s.widthRaw ∧ s.width.toNat < 2 ^ 31 ∧ s.rowStride.toNat = rowStrideOf s.width.toNat
  /-- R108, R110 -/
  clipSet : s.phase.past 13 →
    s.clipH.toNat = min s.height.toNat s.config.stripLength.toNat ∧
      s.frameTotal.toNat = s.width.toNat + blankFrames s.config ∧ s.frameTotal.toNat ≤ s.config.maxFrames.toNat
  /-- R12 -/
  countersStart : s.phase.rank ≤ 14 → s.row = 0 ∧ s.col = 0
  rowBound : s.phase.past 13 → s.row.toNat ≤ s.clipH.toNat
  colBound : s.phase.past 13 → s.col.toNat ≤ s.width.toNat
  rowInLoop : s.phase.inRow → s.row.toNat < s.clipH.toNat
  colInLoop : s.phase.inPixel → s.col.toNat < s.width.toNat
  /-- R109 -/
  imageFilled : s.phase.past 14 → s.frame.filled (s.width.toNat * frameLength s.config)
  /-- R130 (a): the positions below `L - CLIP_H` keep the zeros of `FCLEAR` -/
  unfilledZero : s.phase.past 14 → ∀ f p k, f < s.width.toNat → p + s.clipH.toNat < s.config.stripLength.toNat →
    k < 3 → s.frame.read (frameAddress s.config f p + k) = some 0
  /-- R136 -/
  blankZero : s.phase.past 21 → s.config.loop = false → ∀ k, k < frameLength s.config →
    s.frame.read (s.width.toNat * frameLength s.config + k) = some 0
  /-- R137 -/
  countPublished : s.phase = .done → s.frameCount = s.frameTotal
  /-- R117: the position of the pixel being read -/
  pixelPlace : s.phase = .pixrd → s.spos.toNat = seekTarget s + 3 * s.col.toNat
  pixelRead : s.phase = .gamma ∨ s.phase = .reord ∨ s.phase = .pixst →
    s.spos.toNat = seekTarget s + 3 * (s.col.toNat + 1)
  rowRead : s.phase = .rowend → s.spos.toNat = seekTarget s + 3 * s.width.toNat
  /-- R16: `SPOS` shadows the agent's position -/
  shadow : isBusy s.phase = true → s.phase ≠ .hseek → s.stream.pos = s.spos

/-! ## The load as one function (R138) -/

/-- The first applicable cause of R138 for a stream, with the value recorded (R146); none for a load that ends in `DONE`. -/
def loadCause (c : Config) (b : List Byte) : Option (Cause × Word) :=
  let h := Header.ofBytes b
  if h.sig ≠ 0x4D42 then some (.fmtSignature, zext32 h.sig)
  else if h.planes ≠ 1 then some (.fmtPlanes, zext32 h.planes)
  else if h.bitDepth ≠ 24 then some (.fmtBitDepth, zext32 h.bitDepth)
  else if h.compression ≠ 0 then some (.fmtCompression, h.compression)
  else if h.width.toInt < 0 then some (.geoWidthNegative, h.width)
  else if c.maxFrames.toNat < h.width.toNat + blankFrames c then
    some (.capFrames, BitVec.ofNat 32 (h.width.toNat + blankFrames c))
  else none

/-- `H` of R138. -/
def loadHeight (b : List Byte) : Nat := (Header.ofBytes b).height.toInt.natAbs

/-- `W` of R138. -/
def loadWidth (b : List Byte) : Nat := (Header.ofBytes b).width.toNat

/-- `C` of R138. -/
def loadRows (c : Config) (b : List Byte) : Nat := min (loadHeight b) c.stripLength.toNat

/-- The stored row of display row `r` (R67, R138). -/
def loadStoredRow (b : List Byte) (r : Nat) : Nat :=
  if 0 ≤ (Header.ofBytes b).height.toInt then loadHeight b - 1 - r else r

/-- The stream position of the first byte of display row `r` (R67). -/
def loadRowStart (b : List Byte) (r : Nat) : Nat :=
  (Header.ofBytes b).dataOffset.toNat + loadStoredRow b r * ((3 * loadWidth b + 3) / 4 * 4)

/-- `ORDER[k]` as a number: at once the stored channel and its offset in the triple (R138). -/
def orderAt (c : Config) (k : Nat) : Nat :=
  match k with
  | 0 => channelCode c.order.slot0
  | 1 => channelCode c.order.slot1
  | _ => channelCode c.order.slot2

/-- The byte R138 gives `FRAME[f][p][k]` for an image frame `f`. -/
def loadByte (c : Config) (b : List Byte) (f p k : Nat) : Byte :=
  let r := c.stripLength.toNat - 1 - p
  if r < loadRows c b then lutAt c (b.getD (loadRowStart b r + 3 * f + orderAt c k) 0) else 0

/-- Every byte the load reads lies in the stream, so that no request meets the end of the file. An image of width 0 has no
pixel to read, wherever its rows start (R42, R116 c). -/
def streamHolds (c : Config) (b : List Byte) : Prop :=
  34 ≤ b.length ∧ ∀ r, r < loadRows c b → 0 < loadWidth b → loadRowStart b r + 3 * loadWidth b ≤ b.length

/-- The requests of the header, in order (R57). -/
def headerTrace : List Request :=
  [.seek 0, .read 2 0, .read 8 2, .read 4 10, .read 4 14, .read 4 18, .read 4 22, .read 2 26, .read 2 28, .read 4 30]

/-- The requests of display row `r`: its seek, then its pixel reads (R57). -/
def rowTrace (b : List Byte) (r : Nat) : List Request :=
  .seek (BitVec.ofNat 64 (loadRowStart b r)) ::
    (List.range (loadWidth b)).map fun f => .read 3 (BitVec.ofNat 64 (loadRowStart b r + 3 * f))

/-- The request trace of a load that meets no error (R57). -/
def loadTrace (c : Config) (b : List Byte) : List Request :=
  headerTrace ++ (List.range (loadRows c b)).flatMap (rowTrace b)

/-- The sequencer steps of such a load (R140). -/
def loadSteps (c : Config) (b : List Byte) : Nat := 16 + loadRows c b * (2 + 4 * loadWidth b)

/-- The sequencer is about to begin a load on a stream none of whose requests is made to err, and no host step comes between
(R173's entry conditions of the first operation). -/
def State.atLoadStart (s : State) : Prop :=
  s.Inv ∧ s.phase = .hseek ∧ s.inputs = [] ∧ s.stream.script = [] ∧ s.trace = []

end Sys2Proof.Machine
end

