-- ==== Sys2Proof/Certificates/Slice0/Obligations.lean ====
section
/-! DEFINITION. The statements for the provers. Each docstring names the rule of spec/ it formalises, or the sections it
rests on. -/

open Sys2Proof Sys2Proof.Machine

/-! ## Encodings -/

/-- Words written out from R71, R72 and the worked header of spec/95_test_vectors.md section 2.2. -/
def Obligations.TableWordsDecode : Prop :=
  decodeTableWord 32 0x00000001 = some .start ∧
  decodeTableWord 32 0x00000302 = some (.frd 3) ∧
  decodeTableWord 32 0xFFFFFF01 = none ∧
  decodeTableWord 8 0b00001 = some .hseek ∧
  decodeTableWord 8 0b01100 = some .stride ∧
  decodeTableWord 8 0b10100 = some .rowend ∧
  decodeTableWord 8 0b10011 = some .pixst ∧
  decodeTableWord 8 0b10110 = some .finish ∧
  decodeTableWord 8 0b10111 = none ∧
  decodeTableWord 272 0x00000000001800010000000200000002000000280000003600000000000000464D42 =
    some (.bmp24 ⟨0x4D42, 0x46, 0, 0x36, 0x28, 2, 2, 1, 24, 0⟩)

/-- R61, R70 to R72: no bit of a well-formed instruction's encoding is dropped. -/
def Obligations.DecodeOfEncodeIsIdentity : Prop :=
  ∀ i : Instr, i.wf = true → decode (encode i) = .ok i

/-- R61, R70 to R72: what the decoder accepts is well formed, and each instruction has one encoding. -/
def Obligations.EncodeOfDecodeIsIdentity : Prop :=
  ∀ (e : Encoded) (i : Instr), decode e = .ok i → encode i = e ∧ i.wf = true

/-- R62's mask and match: of all 34-byte headers exactly those that satisfy `H & MASK = MATCH` are accepted, with every
other bit free (192 of them, log 19). -/
def Obligations.HeaderPatternIsMaskAndMatch : Prop :=
  ∀ b : List Byte, b.length = 34 →
    ((∃ i, decode (.header b) = .ok i) ↔ headerWord b &&& headerMask = headerMatch)

/-! ## Host commands and registers -/

/-- R81. `trace` is the model's own field, of which nothing is said here (log 14). -/
def Obligations.StartBeginsALoadOrIsRefused : Prop :=
  ∀ s : State,
    ((s.phase = .idle ∨ s.phase = .error) →
      ∃ t, exec .start s = .next t ∧ t =
        { State.resetWith s.config s.stream with
          phase := .hseek, frame := s.frame, inputs := s.inputs, answer := s.answer, trace := t.trace }) ∧
    (¬(s.phase = .idle ∨ s.phase = .error) → exec .start s = .next { s with cmdErr := true })

/-- R82, in every state that meets the invariant: the whole frame in `DONE` for `f < FRAME_COUNT`, refused
otherwise, with no bytes returned. -/
def Obligations.FrdReturnsTheWholeFrameOrIsRefused : Prop :=
  ∀ (s : State) (f : Nat), s.Inv →
    ((s.phase = .done ∧ f < s.frameCount.toNat) →
      ∃ v : List Byte, v.length = 3 * s.config.stripLength.toNat ∧
        (∀ i, i < 3 * s.config.stripLength.toNat →
          s.frame.read (f * (3 * s.config.stripLength.toNat) + i) = v[i]?) ∧
        exec (.frd f) s = .next { s with answer := .bytes v }) ∧
    (¬(s.phase = .done ∧ f < s.frameCount.toNat) →
      ∃ t, exec (.frd f) s = .next t ∧ t = { s with cmdErr := true, answer := t.answer } ∧ ∀ v, t.answer ≠ .bytes v)

/-- R139 (c): without looping the last frame reads as `3*L` zero bytes. -/
def Obligations.LastFrameIsDarkWithoutLoop : Prop :=
  ∀ s : State, s.Inv → s.phase = .done → s.config.loop = false →
    0 < s.frameCount.toNat ∧
    exec (.frd (s.frameCount.toNat - 1)) s =
      .next { s with answer := .bytes (List.replicate (3 * s.config.stripLength.toNat) 0) }

/-- R83: a word that is neither `START` nor an `FRD` sets `CMDERR` and changes nothing else, in every state. -/
def Obligations.ReservedCommandWordIsRefused : Prop :=
  ∀ (s : State) (w : Word) (rest : List Input), s.config.legal = true →
    ((w.extractLsb' 0 8 ≠ 0x01#8 ∧ w.extractLsb' 0 8 ≠ 0x02#8) ∨
      (w.extractLsb' 0 8 = 0x01#8 ∧ w.extractLsb' 8 24 ≠ 0#24)) →
    step { s with inputs := .write 0 w :: rest } = .next { s with inputs := rest, cmdErr := true }

/-- R175, R83: `CMDERR` once set goes only by reset or by an accepted `START`. -/
def Obligations.CommandErrorIsSticky : Prop :=
  ∀ s t : State, step s = .next t → s.cmdErr = true → t.cmdErr = false →
    s.inputs.head? = some .reset ∨
      (s.inputs.head? = some (.write 0 0x00000001) ∧ (s.phase = .idle ∨ s.phase = .error))

/-- R23: the fields of `STATUS`, and exactly one of `PHASE = IDLE`, `BUSY`, `DONE`, `ERROR`. -/
def Obligations.StatusRegisterFields : Prop :=
  ∀ s : State,
    (readReg s 0x01).extractLsb' 0 5 = s.phase.code ∧
    (readReg s 0x01).extractLsb' 5 3 = 0#3 ∧
    ((readReg s 0x01).getLsbD 8 = true ↔ s.phase ≠ .idle ∧ s.phase ≠ .done ∧ s.phase ≠ .error) ∧
    ((readReg s 0x01).getLsbD 9 = true ↔ s.phase = .done) ∧
    ((readReg s 0x01).getLsbD 10 = true ↔ s.phase = .error) ∧
    ((readReg s 0x01).getLsbD 11 = true ↔ s.rowOrder = .bottomUp) ∧
    (readReg s 0x01).getLsbD 12 = s.cmdErr ∧
    (readReg s 0x01).extractLsb' 13 19 = 0#19

/-- R24: the fields of `CFG_FLAGS`, the channels coded 0 blue, 1 green, 2 red. -/
def Obligations.ConfigurationFlagsFields : Prop :=
  ∀ s : State,
    (readReg s 0x09).getLsbD 0 = s.config.loop ∧
    (readReg s 0x09).extractLsb' 1 7 = 0#7 ∧
    (readReg s 0x09).extractLsb' 8 2 =
      (match s.config.order.slot0 with | .blue => 0#2 | .green => 1#2 | .red => 2#2) ∧
    (readReg s 0x09).extractLsb' 10 2 =
      (match s.config.order.slot1 with | .blue => 0#2 | .green => 1#2 | .red => 2#2) ∧
    (readReg s 0x09).extractLsb' 12 2 =
      (match s.config.order.slot2 with | .blue => 0#2 | .green => 1#2 | .red => 2#2) ∧
    (readReg s 0x09).extractLsb' 14 18 = 0#18

/-- R25. -/
def Obligations.TableWindowShowsFourEntries : Prop :=
  ∀ (s : State) (j : Fin 64),
    readReg s (0x40 + j.val) =
      s.config.lut[4 * j.val + 3] ++ s.config.lut[4 * j.val + 2] ++ s.config.lut[4 * j.val + 1] ++ s.config.lut[4 * j.val]

/-- R22: what each listed index but `STATUS`, `CFG_FLAGS` and the table window reads. -/
def Obligations.RegisterMapContents : Prop :=
  ∀ s : State,
    readReg s 0x00 = 0 ∧
    readReg s 0x02 = s.errCode.setWidth 32 ∧
    readReg s 0x03 = s.errIo ∧
    readReg s 0x04 = s.errValue ∧
    readReg s 0x06 ++ readReg s 0x05 = s.errPos ∧
    readReg s 0x07 = s.frameCount ∧
    readReg s 0x08 = s.config.stripLength ∧
    readReg s 0x0A = s.config.speed ∧
    readReg s 0x0B = s.config.maxFrames ∧
    readReg s 0x0C = s.config.busyCode ∧
    readReg s 0x10 = s.sig.setWidth 32 ∧
    readReg s 0x11 = s.dataOffset ∧
    readReg s 0x12 = s.widthRaw ∧
    readReg s 0x13 = s.heightRaw ∧
    readReg s 0x14 = s.planes.setWidth 32 ∧
    readReg s 0x15 = s.bitDepth.setWidth 32 ∧
    readReg s 0x16 = s.compression ∧
    readReg s 0x18 = s.height ∧
    readReg s 0x1A ++ readReg s 0x19 = s.rowStride ∧
    readReg s 0x1B = s.clipH ∧
    readReg s 0x1C = s.frameTotal ∧
    readReg s 0x1D = s.width ∧
    readReg s 0x1E = s.row ∧
    readReg s 0x1F = s.col ∧
    readReg s 0x21 ++ readReg s 0x20 = s.spos

/-- R26: reserved indices read 0, and a write to any index but 0 changes no state. -/
def Obligations.ReservedRegistersReadZeroAndIgnoreWrites : Prop :=
  ∀ (s : State) (i : Nat) (w : Word) (rest : List Input), s.config.legal = true →
    (((0x0D ≤ i ∧ i ≤ 0x0F) ∨ i = 0x17 ∨ (0x22 ≤ i ∧ i ≤ 0x3F) ∨ 0x80 ≤ i) → readReg s i = 0) ∧
    (i ≠ 0 → step { s with inputs := .write i w :: rest } = .next { s with inputs := rest })

/-- R27: a register read changes nothing in the block and returns the value of the moment, whatever `PHASE` is. -/
def Obligations.RegisterReadHasNoSideEffect : Prop :=
  ∀ (s : State) (i : Nat) (rest : List Input), s.config.legal = true →
    step { s with inputs := .read i :: rest } = .next { s with inputs := rest, answer := .word (readReg s i) }

/-- R7 (b), R81 (c), R83, R174: a host access never changes what a running load computes. -/
def Obligations.HostAccessLeavesRunningLoadAlone : Prop :=
  ∀ (s : State) (x : Input) (rest : List Input), s.config.legal = true → isBusy s.phase = true →
    ((∃ i w, x = .write i w) ∨ ∃ i, x = .read i) →
    ∃ t, step { s with inputs := x :: rest } = .next t ∧
      t = { s with inputs := rest, cmdErr := t.cmdErr, answer := t.answer } ∧ (s.cmdErr = true → t.cmdErr = true)

/-! ## Reset -/

/-- R170, R172: the values reset leaves, whatever `PHASE` is; no `FRD` is then accepted and the
sequencer has no operation. -/
def Obligations.ResetValuesFromAnyState : Prop :=
  ∀ (s : State) (rest : List Input), s.config.legal = true →
    ∃ t, step { s with inputs := .reset :: rest } = .next t ∧
      t.phase = .idle ∧ t.row = 0 ∧ t.col = 0 ∧
      t.sig = 0 ∧ t.dataOffset = 0 ∧ t.widthRaw = 0 ∧ t.heightRaw = 0 ∧ t.planes = 0 ∧ t.bitDepth = 0 ∧
      t.compression = 0 ∧
      t.height = 0 ∧ t.width = 0 ∧ t.rowStride = 0 ∧ t.clipH = 0 ∧ t.frameTotal = 0 ∧
      t.pix = ⟨0, 0, 0⟩ ∧ t.cor = ⟨0, 0, 0⟩ ∧ t.out = ⟨0, 0, 0⟩ ∧
      t.spos = 0 ∧ t.rowOrder = .topDown ∧ t.cmdErr = false ∧
      t.errCode = 0 ∧ t.errIo = 0 ∧ t.errValue = 0 ∧ t.errPos = 0 ∧ t.frameCount = 0 ∧
      t.config = s.config ∧ t.stream = s.stream ∧ t.inputs = rest ∧
      readReg t 0x01 = 0 ∧
      (∀ f, ∃ u, exec (.frd f) t = .next u ∧ u = { t with cmdErr := true, answer := u.answer } ∧ ∀ v, u.answer ≠ .bytes v) ∧
      ∀ i, decode (.phase t.phase.code) ≠ .ok i

/-! ## Header parse -/

/-- R91. -/
def Obligations.HseekSeeksTheStart : Prop :=
  raisesIoOnErr .hseek (fun _ => .seek 0) (fun _ => 0) ∧
  ∀ s : State, s.requestPasses →
    exec .hseek s = .next { s.afterRequest (.seek 0) 0 with spos := 0, phase := .rdsig }

/-- R92: both bytes are compared, `SIG` is latched first. -/
def Obligations.RdsigChecksTheSignature : Prop :=
  readRaises .rdsig 2 ∧
  ∀ (s : State) (b0 b1 : Byte), s.requestPasses → s.nextBytes [b0, b1] →
    ((b0 = 0x42 ∧ b1 = 0x4D) → exec .rdsig s = .next { s.served 2 with sig := 0x4D42, phase := .skipa }) ∧
    (¬(b0 = 0x42 ∧ b1 = 0x4D) →
      exec .rdsig s = .next
        ({ s.served 2 with sig := b1 ++ b0 }.trapped 0x01 ((b1 ++ b0).setWidth 32) 0 (s.spos + 2)))

/-- R93, R95: eight and four bytes are read and discarded, whatever they are. -/
def Obligations.SkipsDiscardTheirBytes : Prop :=
  readRaises .skipa 8 ∧ readRaises .skipb 4 ∧
  ∀ s : State, s.requestPasses →
    (¬s.shortOf 8 → exec .skipa s = .next { s.served 8 with phase := .rdoff }) ∧
    (¬s.shortOf 4 → exec .skipb s = .next { s.served 4 with phase := .rdwid })

/-- R94, R96, R97: the four bytes, least significant first, in `DATA_OFFSET`, `WIDTH_RAW`, `HEIGHT_RAW`. -/
def Obligations.WordFieldsAreLatchedLittleEndian : Prop :=
  readRaises .rdoff 4 ∧ readRaises .rdwid 4 ∧ readRaises .rdhgt 4 ∧
  ∀ (s : State) (b0 b1 b2 b3 : Byte), s.requestPasses → s.nextBytes [b0, b1, b2, b3] →
    exec .rdoff s = .next { s.served 4 with dataOffset := b3 ++ b2 ++ b1 ++ b0, phase := .skipb } ∧
    exec .rdwid s = .next { s.served 4 with widthRaw := b3 ++ b2 ++ b1 ++ b0, phase := .rdhgt } ∧
    exec .rdhgt s = .next { s.served 4 with heightRaw := b3 ++ b2 ++ b1 ++ b0, phase := .rdpln }

/-- R98. -/
def Obligations.RdplnChecksThePlaneCount : Prop :=
  readRaises .rdpln 2 ∧
  ∀ (s : State) (b0 b1 : Byte), s.requestPasses → s.nextBytes [b0, b1] →
    ((b1 ++ b0 : Half) = 1 → exec .rdpln s = .next { s.served 2 with planes := 1, phase := .rdbpp }) ∧
    ((b1 ++ b0 : Half) ≠ 1 →
      exec .rdpln s = .next
        ({ s.served 2 with planes := b1 ++ b0 }.trapped 0x02 ((b1 ++ b0).setWidth 32) 0 (s.spos + 2)))

/-- R99. -/
def Obligations.RdbppChecksTheBitDepth : Prop :=
  readRaises .rdbpp 2 ∧
  ∀ (s : State) (b0 b1 : Byte), s.requestPasses → s.nextBytes [b0, b1] →
    ((b1 ++ b0 : Half) = 24 → exec .rdbpp s = .next { s.served 2 with bitDepth := 24, phase := .rdcmp }) ∧
    ((b1 ++ b0 : Half) ≠ 24 →
      exec .rdbpp s = .next
        ({ s.served 2 with bitDepth := b1 ++ b0 }.trapped 0x03 ((b1 ++ b0).setWidth 32) 0 (s.spos + 2)))

/-- R100: all four bytes are compared. -/
def Obligations.RdcmpChecksTheCompression : Prop :=
  readRaises .rdcmp 4 ∧
  ∀ (s : State) (b0 b1 b2 b3 : Byte), s.requestPasses → s.nextBytes [b0, b1, b2, b3] →
    ((b3 ++ b2 ++ b1 ++ b0 : Word) = 0 →
      exec .rdcmp s = .next { s.served 4 with compression := 0, phase := .roword }) ∧
    ((b3 ++ b2 ++ b1 ++ b0 : Word) ≠ 0 →
      exec .rdcmp s = .next
        ({ s.served 4 with compression := b3 ++ b2 ++ b1 ++ b0 }.trapped 0x04 (b3 ++ b2 ++ b1 ++ b0) 0 (s.spos + 4)))

/-- R101, R62, R75 `HDR`: an accepted header, no request of which errs, is latched whole; `SPOS = 34`, no pixel is requested,
`FRAME` is untouched. That `BMP24` presents its header as the stream's first 34 bytes is the model's choice (log 17, 18). -/
def Obligations.AcceptedHeaderIsLatchedWhole : Prop :=
  ∀ (h : Header) (s : State), h.accepted = true → (∀ e ∈ s.stream.script.take 10, e = none) →
    exec (.bmp24 h) s = .next
      { s with
        sig := 0x4D42
        dataOffset := h.dataOffset
        widthRaw := h.width
        heightRaw := h.height
        planes := 1
        bitDepth := 24
        compression := 0
        spos := 34
        phase := .roword
        stream :=
          { s.stream with
            bytes := h.bytes ++ s.stream.bytes.drop 34
            pos := 34
            script := s.stream.script.drop 10 }
        trace := s.trace ++ headerTrace }

/-- R101 conversely, R151 (a): a header that misses the pattern ends in `ERROR` with the code of its first failing field in
the order signature, planes, bitDepth, compression; `FRAME` is untouched, no request beyond the header's ten is made. -/
def Obligations.MalformedHeaderTrapsOnItsFirstFailingField : Prop :=
  ∀ (h : Header) (s : State), h.accepted = false → (∀ e ∈ s.stream.script.take 10, e = none) →
    ∃ t, exec (.bmp24 h) s = .next t ∧ t.phase = .error ∧ t.frameCount = 0 ∧ t.errIo = 0 ∧ t.frame = s.frame ∧
      t.trace <+: s.trace ++ headerTrace ∧
      (h.sig ≠ 0x4D42 → t.errCode = 0x01 ∧ t.errValue = h.sig.setWidth 32 ∧ t.errPos = 2) ∧
      (h.sig = 0x4D42 → h.planes ≠ 1 → t.errCode = 0x02 ∧ t.errValue = h.planes.setWidth 32 ∧ t.errPos = 28) ∧
      (h.sig = 0x4D42 → h.planes = 1 → h.bitDepth ≠ 24 →
        t.errCode = 0x03 ∧ t.errValue = h.bitDepth.setWidth 32 ∧ t.errPos = 30) ∧
      (h.sig = 0x4D42 → h.planes = 1 → h.bitDepth = 24 → h.compression ≠ 0 →
        t.errCode = 0x04 ∧ t.errValue = h.compression ∧ t.errPos = 34)

/-- R44, R57, R90, R146, R151 (c), R152: the first erring request of an accepted header ends the load in `ERROR`, with the
agent's code, the position asked for, and no later request. Request `j` is counted from 0 (R57 from 1). -/
def Obligations.FirstErringHeaderRequestEndsTheLoad : Prop :=
  ∀ (h : Header) (s : State) (j : Nat) (e : ErrAnswer), h.accepted = true → j < 10 →
    (∀ i, i < j → s.stream.script[i]?.join = none) → s.stream.script[j]?.join = some e →
    ∃ t, exec (.bmp24 h) s = .next t ∧ t.phase = .error ∧ t.errCode = ioErrCode s.config e.code ∧ t.errIo = e.code ∧
      t.errValue = 0 ∧ ([0, 0, 2, 10, 14, 18, 22, 26, 28, 30] : List Pos)[j]? = some t.errPos ∧
      t.frameCount = 0 ∧ t.frame = s.frame ∧ t.trace = s.trace ++ headerTrace.take (j + 1)

/-- R8, R75: `BMP24` taken as one step is the ten steps of the reference sequencing, whether or not a request errs (log 17). -/
def Obligations.Bmp24IsTheTenHeaderSteps : Prop :=
  ∀ (h : Header) (s : State), s.config.legal = true → s.phase = .hseek → s.inputs = [] →
    s.stream.bytes.take 34 = h.bytes → Host.Core.run Sys2Proof.core 10 s = exec (.bmp24 h) s

/-- R63: the discarded fields change nothing but the stream they stand in. That `BMP24` is the ten header operations as one
step, on a stream whose first 34 bytes are its header, is the model's choice (log 17, 18). -/
def Obligations.DiscardedHeaderFieldsHaveNoEffect : Prop :=
  ∀ (h h' : Header) (s t : State),
    h' = { h with fileSize := h'.fileSize, reserved := h'.reserved, dibSize := h'.dibSize } →
    exec (.bmp24 h) s = .next t →
    exec (.bmp24 h') s = .next
      { t with stream := { t.stream with bytes := h'.bytes ++ s.stream.bytes.drop 34 } }

/-! ## Geometry and clip -/

/-- R106: the order from the sign, the magnitude, -2^31 included. -/
def Obligations.RowordNormalisesTheHeight : Prop :=
  ∀ s : State, ∃ t, exec .roword s = .next t ∧
    (s.heightRaw.toInt > 0 → t.rowOrder = .bottomUp) ∧
    (s.heightRaw.toInt < 0 → t.rowOrder = .topDown) ∧
    (s.heightRaw.toInt = 0 → t.rowOrder = .bottomUp) ∧
    t.height.toNat = s.heightRaw.toInt.natAbs ∧
    t = { s with rowOrder := t.rowOrder, height := t.height, phase := .stride }

/-- R107: a negative width traps, any other gives the least multiple of 4 not below `3*WIDTH`. -/
def Obligations.StrideChecksWidthAndPadsRows : Prop :=
  ∀ s : State,
    (s.widthRaw.toInt < 0 → exec .stride s = .next (s.trapped 0x20 s.widthRaw 0 s.spos)) ∧
    (0 ≤ s.widthRaw.toInt → ∃ t, exec .stride s = .next t ∧ t.width = s.widthRaw ∧
      t.rowStride.toNat = (3 * t.width.toNat + 3) / 4 * 4 ∧
      4 ∣ t.rowStride.toNat ∧ 3 * t.width.toNat ≤ t.rowStride.toNat ∧ t.rowStride.toNat ≤ 3 * t.width.toNat + 3 ∧
      t = { s with width := t.width, rowStride := t.rowStride, phase := .clip })

/-- R108, for a width in the range of R14: the clip, the frame total, the capacity check after both are written. -/
def Obligations.ClipSizesTheFrameSequence : Prop :=
  ∀ s : State, s.width.toNat < 2 ^ 31 → ∃ t, exec .clip s = .next t ∧
    t.clipH.toNat = min s.height.toNat s.config.stripLength.toNat ∧
    t.frameTotal.toNat = s.width.toNat + (if s.config.loop = false then 1 else 0) ∧
    (s.config.maxFrames.toNat < t.frameTotal.toNat →
      t = { s with clipH := t.clipH, frameTotal := t.frameTotal }.trapped 0x21 t.frameTotal 0 s.spos) ∧
    (t.frameTotal.toNat ≤ s.config.maxFrames.toNat →
      t = { s with clipH := t.clipH, frameTotal := t.frameTotal, row := 0, phase := .fclear })

/-- R109: the bytes of frames `0 .. WIDTH-1` become zero, every other byte keeps its value. The premise is what `CLIP` has
checked (R49). -/
def Obligations.FclearZeroesTheImageFrames : Prop :=
  ∀ s : State, s.width.toNat ≤ s.config.maxFrames.toNat → ∃ t, exec .fclear s = .next t ∧
    (∀ a, a < s.width.toNat * (3 * s.config.stripLength.toNat) → t.frame.read a = some 0) ∧
    (∀ a, s.width.toNat * (3 * s.config.stripLength.toNat) ≤ a → t.frame.read a = s.frame.read a) ∧
    t = { s with frame := t.frame, phase := if s.clipH = 0 then .blank else .rowseek }

/-! ## Row decode -/

/-- R116, in every state that meets the invariant with `ROWSEEK` due: the exact target, never wrapped. -/
def Obligations.RowseekSeeksTheSourceRow : Prop :=
  ∀ s : State, s.Inv → s.phase = .rowseek →
    (∀ e, s.requestErrs e → ∃ p : Pos,
      p.toNat = s.dataOffset.toNat +
        (if s.rowOrder = .bottomUp then s.height.toNat - 1 - s.row.toNat else s.row.toNat) * s.rowStride.toNat ∧
      exec .rowseek s = .next ((s.afterRequest (.seek p) e.pos).trapped (ioErrCode s.config e.code) 0 e.code p)) ∧
    (s.requestPasses → ∃ p : Pos,
      p.toNat = s.dataOffset.toNat +
        (if s.rowOrder = .bottomUp then s.height.toNat - 1 - s.row.toNat else s.row.toNat) * s.rowStride.toNat ∧
      s.row.toNat < s.height.toNat ∧
      exec .rowseek s = .next
        { s.afterRequest (.seek p) p with
          spos := p, col := 0, phase := if s.width = 0 then .rowend else .pixrd })

/-- R117: blue, green, red in stored order. -/
def Obligations.PixrdReadsBlueGreenRed : Prop :=
  readRaises .pixrd 3 ∧
  ∀ (s : State) (b0 b1 b2 : Byte), s.requestPasses → s.nextBytes [b0, b1, b2] →
    exec .pixrd s = .next { s.served 3 with pix := ⟨b0, b1, b2⟩, phase := .gamma }

/-- R117, R116, R43: in every state that meets the invariant with `PIXRD` due, the one request made is a read of three bytes
at the row's seek target plus `3*COL`, and what is latched are the stream's bytes there; where they are not to be had, the
IOError names that position. -/
def Obligations.PixelPositionFollowsTheColumn : Prop :=
  ∀ s : State, s.Inv → s.phase = .pixrd → ∃ (p : Pos) (t : State),
    p.toNat = s.dataOffset.toNat +
        (if s.rowOrder = .bottomUp then s.height.toNat - 1 - s.row.toNat else s.row.toNat) * s.rowStride.toNat +
        3 * s.col.toNat ∧
    exec .pixrd s = .next t ∧ t.trace = s.trace ++ [.read 3 p] ∧
    ((s.requestPasses ∧ p.toNat + 3 ≤ s.stream.bytes.length) →
      t.phase = .gamma ∧ t.spos.toNat = p.toNat + 3 ∧
      [some t.pix.b0, some t.pix.b1, some t.pix.b2] =
        [s.stream.bytes[p.toNat]?, s.stream.bytes[p.toNat + 1]?, s.stream.bytes[p.toNat + 2]?]) ∧
    (¬(s.requestPasses ∧ p.toNat + 3 ≤ s.stream.bytes.length) →
      t.phase = .error ∧ t.errPos = p ∧ t.pix = s.pix)

/-- R118, for a row index below `2^32 - 1` (R12: it never wraps). -/
def Obligations.RowendChoosesNextRowOrEnd : Prop :=
  ∀ s : State, s.row.toNat + 1 < 2 ^ 32 → ∃ t, exec .rowend s = .next t ∧ t.row.toNat = s.row.toNat + 1 ∧
    t = { s with row := t.row, phase := if t.row.toNat < s.clipH.toNat then .rowseek else .blank }

/-! ## Colour and frame store -/

/-- R126. -/
def Obligations.GammaLooksUpEachChannel : Prop :=
  ∀ s : State, exec .gamma s = .next
    { s with
      cor := ⟨s.config.lut[s.pix.b0.toFin], s.config.lut[s.pix.b1.toFin], s.config.lut[s.pix.b2.toFin]⟩
      phase := .reord }

/-- R129: slot `k` gets the corrected channel `ORDER[k]`, 0 blue, 1 green, 2 red. -/
def Obligations.ReordPermutesTheChannels : Prop :=
  ∀ s : State, ∃ t, exec .reord s = .next t ∧
    (∀ k, k < 3 → [t.out.b0, t.out.b1, t.out.b2][k]? = [s.cor.b0, s.cor.b1, s.cor.b2][orderAt s.config k]?) ∧
    t = { s with out := t.out, phase := .pixst }

/-- R131: `OUT[k] = LUT[PIX[ORDER[k]]]`, from `GAMMA` and `REORD` in either order. -/
def Obligations.CorrectionAndReorderCommute : Prop :=
  ∀ s : State, ∃ t u, exec .gamma s = .next t ∧ exec .reord t = .next u ∧
    u.out = (s.pix.reordered s.config).corrected s.config ∧
    ∀ k, k < 3 → [u.out.b0, u.out.b1, u.out.b2][k]? =
      ([s.pix.b0, s.pix.b1, s.pix.b2][orderAt s.config k]?).map fun v => s.config.lut[v.toFin]

/-- R130: the three bytes at `(COL*L + (L-1-ROW))*3`, every other byte as before. The premises are R130's own bounds and what
`CLIP` has checked (R49). -/
def Obligations.PixstStoresThePixel : Prop :=
  ∀ s : State, s.row.toNat < s.config.stripLength.toNat → s.col.toNat < s.config.maxFrames.toNat →
    s.col.toNat + 1 < 2 ^ 32 → ∃ t, exec .pixst s = .next t ∧
    (∀ k, k < 3 → t.frame.read (pixelAddress s + k) = [s.out.b0, s.out.b1, s.out.b2][k]?) ∧
    (∀ a, a < pixelAddress s ∨ pixelAddress s + 3 ≤ a → t.frame.read a = s.frame.read a) ∧
    pixelAddress s = (s.col.toNat * s.config.stripLength.toNat + (s.config.stripLength.toNat - 1 - s.row.toNat)) * 3 ∧
    t.col.toNat = s.col.toNat + 1 ∧
    t = { s with
      frame := t.frame, col := t.col, phase := if t.col.toNat < s.width.toNat then .pixrd else .rowend }

/-- R128: the properties of `lutgen(g, b)` for every legal `g` and `b`. -/
def Obligations.ColourTableProperties : Prop :=
  ∀ (g b : ℝ) (t : Vector Byte 256), 0 < g → 0 ≤ b → b ≤ 1 → Config.IsLutgen g b t →
    t[0] = 0 ∧
    (b = 1 → t[255] = 255) ∧
    (∀ u v : Fin 256, u ≤ v → t[u] ≤ t[v]) ∧
    (∀ v : Fin 256, (t[v].toNat : ℤ) ≤ ⌊255 * b + 1 / 2⌋) ∧
    (b = 0 → ∀ v : Fin 256, t[v] = 0) ∧
    (g = 1 → b = 1 → ∀ v : Fin 256, t[v].toNat = v.val)

/-! ## Blank and finish -/

/-- R136: without looping frame `WIDTH` becomes zero and every other byte keeps its value; looping writes nothing. The premise
is what `CLIP` has checked (R49). -/
def Obligations.BlankAppendsTheDarkFrame : Prop :=
  ∀ s : State,
    (s.config.loop = true → exec .blank s = .next { s with phase := .finish }) ∧
    (s.config.loop = false → s.width.toNat + 1 ≤ s.config.maxFrames.toNat → ∃ t, exec .blank s = .next t ∧
      (∀ k, k < 3 * s.config.stripLength.toNat →
        t.frame.read (s.width.toNat * (3 * s.config.stripLength.toNat) + k) = some 0) ∧
      (∀ a, a < s.width.toNat * (3 * s.config.stripLength.toNat) ∨
          (s.width.toNat + 1) * (3 * s.config.stripLength.toNat) ≤ a → t.frame.read a = s.frame.read a) ∧
      t = { s with frame := t.frame, phase := .finish })

/-- R137. -/
def Obligations.FinishPublishesTheSequence : Prop :=
  ∀ s : State, exec .finish s = .next { s with frameCount := s.frameTotal, phase := .done }

/-! ## Steps -/

/-- R7, R11, R80: a step runs the instruction decoded from where it stands: the `PHASE` code on the sequencer's turn, the word
the host writes to `x[0]`, the header at the start of the stream where the header operations are taken as one (log 17). -/
def Obligations.StepRunsTheDecodedInstruction : Prop :=
  ∀ (s : State) (i : Instr) (rest : List Input), s.config.legal = true →
    (decode (.phase s.phase.code) = .ok i →
      (s.inputs = [] → step s = exec i s) ∧
      step { s with inputs := .yield :: rest } = exec i { s with inputs := rest } ∧
      step { s with inputs := .wait :: rest } = exec i { s with inputs := .wait :: rest }) ∧
    (∀ w, decode (.command w) = .ok i →
      step { s with inputs := .write 0 w :: rest } = exec i { s with inputs := rest }) ∧
    (decode (.header (s.stream.bytes.take 34)) = .ok i → s.phase = .hseek →
      step { s with inputs := .hdr :: rest } = exec i { s with inputs := rest })

/-- R11, R140: in `IDLE`, `DONE` and `ERROR` the sequencer has no step; a turn given to it changes nothing. -/
def Obligations.RestingStatesHaveNoSequencerStep : Prop :=
  ∀ (s : State) (rest : List Input), s.config.legal = true →
    (s.phase = .idle ∨ s.phase = .done ∨ s.phase = .error) →
    (s.inputs = [] → step s = .next s) ∧
    step { s with inputs := .yield :: rest } = .next { s with inputs := rest } ∧
    step { s with inputs := .wait :: rest } = .next { s with inputs := rest }

/-- R140: every sequencer step follows the transition table. -/
def Obligations.SequencerFollowsTheTransitionTable : Prop :=
  ∀ s t : State, step s = .next t → s.inputs = [] → t.phase ∈ s.phase.successors

/-- R20, R49: no instruction but `FCLEAR`, `PIXST` and `BLANK` writes `FRAME`. -/
def Obligations.OnlyThreeOperationsWriteFrame : Prop :=
  ∀ (i : Instr) (s t : State), exec i s = .next t → i ≠ .fclear → i ≠ .pixst → i ≠ .blank →
    ∀ a, t.frame.read a = s.frame.read a

/-- R20, R176: once `DONE`, nothing but reset changes `PHASE`, `FRAME` or `FRAME_COUNT`. -/
def Obligations.FinishedSequenceIsImmutable : Prop :=
  ∀ s t : State, s.phase = .done → s.inputs.head? ≠ some .reset → step s = .next t →
    t.phase = .done ∧ t.frameCount = s.frameCount ∧ ∀ a, t.frame.read a = s.frame.read a

/-- R5, R21: no step writes a parameter. -/
def Obligations.ConfigurationNeverChanges : Prop :=
  ∀ s t : State, step s = .next t → t.config = s.config

/-- R6, U14: an illegal configuration is refused (log 3). -/
def Obligations.IllegalConfigurationIsRefused : Prop :=
  ∀ s : State, s.config.legal = false → step s = .refused .illegalConfiguration

/-! ## Invariant -/

/-- R28, R170: the invariant holds at reset, of every legal configuration and any stream agent. -/
def Obligations.InvariantHoldsAtReset : Prop :=
  State.reset.Inv ∧ ∀ (c : Config) (a : StreamAgent), c.legal = true → (State.resetWith c a).Inv

/-- The invariant is kept by every step. -/
def Obligations.StepKeepsTheInvariant : Prop :=
  ∀ s t : State, s.Inv → step s = .next t → t.Inv

/-- R49, R110, R147: from the invariant no step faults and none is refused. -/
def Obligations.StepFromTheInvariantGoesOn : Prop :=
  ∀ s : State, s.Inv → ∃ t, step s = .next t

/-! ## The load as one function -/

/-- R138, R151: a stream with a cause ends in `ERROR` with the first applicable one, `FRAME` untouched, only header requests
made. -/
def Obligations.LoadEndsInItsFirstCause : Prop :=
  ∀ (s : State) (c : Cause) (v : Word), s.atLoadStart → 34 ≤ s.stream.bytes.length →
    loadCause s.config s.stream.bytes = some (c, v) →
    ∃ k t, k ≤ 13 ∧ Host.Core.run Sys2Proof.core k s = .next t ∧ t.phase = .error ∧ t.errCode = c.code ∧
      t.errValue = v ∧ t.errIo = 0 ∧ t.frameCount = 0 ∧ t.frame = s.frame ∧ t.trace <+: headerTrace

/-- R138: a load none of whose requests errs ends in `DONE` with exactly the frames of the big-step function. -/
def Obligations.LoadBuildsTheFrameSequence : Prop :=
  ∀ s : State, s.atLoadStart → streamHolds s.config s.stream.bytes → loadCause s.config s.stream.bytes = none →
    ∃ t, Host.Core.run Sys2Proof.core (loadSteps s.config s.stream.bytes) s = .next t ∧ t.phase = .done ∧
      t.frameCount.toNat = loadWidth s.stream.bytes + (if s.config.loop = false then 1 else 0) ∧
      (∀ f p k, f < loadWidth s.stream.bytes → p < s.config.stripLength.toNat → k < 3 →
        t.frame.read ((f * s.config.stripLength.toNat + p) * 3 + k) = some (loadByte s.config s.stream.bytes f p k)) ∧
      (s.config.loop = false → ∀ p k, p < s.config.stripLength.toNat → k < 3 →
        t.frame.read ((loadWidth s.stream.bytes * s.config.stripLength.toNat + p) * 3 + k) = some 0)

/-- R57, R178: the requests of such a load, in order, and their number. The field `trace` is the model's own (log 14); the
header takes one seek and nine reads, as R57 lists them (log 20). -/
def Obligations.LoadIssuesTheRequestTrace : Prop :=
  ∀ s : State, s.atLoadStart → streamHolds s.config s.stream.bytes → loadCause s.config s.stream.bytes = none →
    ∃ t, Host.Core.run Sys2Proof.core (loadSteps s.config s.stream.bytes) s = .next t ∧ t.phase = .done ∧
      t.trace = loadTrace s.config s.stream.bytes ∧
      t.trace.length = 10 + loadRows s.config s.stream.bytes * (1 + loadWidth s.stream.bytes)

/-- R140, R177: every load ends, whatever the stream agent answers, within the bound of R140 at its largest. -/
def Obligations.EveryLoadEnds : Prop :=
  ∀ s : State, s.Inv → s.phase = .hseek → s.inputs = [] →
    ∃ k t, k ≤ 16 + s.config.stripLength.toNat * (2 + 4 * s.config.maxFrames.toNat) ∧
      Host.Core.run Sys2Proof.core k s = .next t ∧ (t.phase = .done ∨ t.phase = .error)

/-- R139 (b), R67: two loads whose streams differ in the sign of the height, with the same display rows, build the same
frames. -/
def Obligations.RowOrderDoesNotShowInTheFrames : Prop :=
  ∀ s s' : State, s.atLoadStart → s'.atLoadStart → s'.config = s.config →
    streamHolds s.config s.stream.bytes → streamHolds s'.config s'.stream.bytes →
    loadCause s.config s.stream.bytes = none → loadCause s'.config s'.stream.bytes = none →
    loadWidth s'.stream.bytes = loadWidth s.stream.bytes →
    (Header.ofBytes s'.stream.bytes).height.toInt = -(Header.ofBytes s.stream.bytes).height.toInt →
    (∀ r j, r < loadRows s.config s.stream.bytes → j < 3 * loadWidth s.stream.bytes →
      s'.stream.bytes[loadRowStart s'.stream.bytes r + j]? = s.stream.bytes[loadRowStart s.stream.bytes r + j]?) →
    ∃ t t', Host.Core.run Sys2Proof.core (loadSteps s.config s.stream.bytes) s = .next t ∧
      Host.Core.run Sys2Proof.core (loadSteps s'.config s'.stream.bytes) s' = .next t' ∧
      t.phase = .done ∧ t'.phase = .done ∧ t'.frameCount = t.frameCount ∧
      ∀ a, a < t.frameCount.toNat * (3 * s.config.stripLength.toNat) → t'.frame.read a = t.frame.read a
end

