-- ==== Sys2Proof/Laws/Encoding.lean ====
section
/-! SUPPORT. The little-endian helpers undo each other, and so do the ten fields of a header and its 34 bytes. -/

namespace Sys2Proof

@[simp] theorem leBytes_length (n x : Nat) : (leBytes n x).length = n := by
  induction n generalizing x with
  | zero => rfl
  | succ n ih => simp [leBytes, ih]

theorem leNat_leBytes (n x : Nat) : leNat (leBytes n x) = x % 2 ^ (8 * n) := by
  induction n generalizing x with
  | zero => simp [leBytes, leNat, Nat.mod_one]
  | succ n ih =>
    have h : 2 ^ (8 * (n + 1)) = 2 ^ 8 * 2 ^ (8 * n) := by
      rw [← Nat.pow_add]
      congr 1
      omega
    rw [leBytes, leNat, ih, h, Nat.mod_mul, BitVec.toNat_ofNat]

theorem leNat_lt (b : List Byte) : leNat b < 2 ^ (8 * b.length) := by
  induction b with
  | nil => simp [leNat]
  | cons c b ih =>
    have h : 2 ^ (8 * (b.length + 1)) = 2 ^ 8 * 2 ^ (8 * b.length) := by
      rw [← Nat.pow_add]
      congr 1
      omega
    have := c.isLt
    rw [leNat, List.length_cons, h]
    omega

theorem leBytes_leNat (b : List Byte) : leBytes b.length (leNat b) = b := by
  induction b with
  | nil => rfl
  | cons c b ih =>
    have hc := c.isLt
    have hd : (c.toNat + 2 ^ 8 * leNat b) / 2 ^ 8 = leNat b := by omega
    have hm : BitVec.ofNat 8 (c.toNat + 2 ^ 8 * leNat b) = c := by
      apply BitVec.eq_of_toNat_eq
      rw [BitVec.toNat_ofNat]
      omega
    simp only [leNat, List.length_cons, leBytes, hd, hm, ih]

theorem leNat_append (a b : List Byte) : leNat (a ++ b) = leNat a + 2 ^ (8 * a.length) * leNat b := by
  induction a with
  | nil => simp [leNat]
  | cons c a ih =>
    have h : 2 ^ (8 * (a.length + 1)) = 2 ^ 8 * 2 ^ (8 * a.length) := by
      rw [← Nat.pow_add]
      congr 1
      omega
    rw [List.cons_append, leNat, leNat, ih, List.length_cons, h]
    ring

theorem le16_leBytes (x : Half) : le16 (leBytes 2 x.toNat) = x := by
  apply BitVec.eq_of_toNat_eq
  rw [le16, BitVec.toNat_ofNat, leNat_leBytes]
  have := x.isLt
  omega

theorem le32_leBytes (x : Word) : le32 (leBytes 4 x.toNat) = x := by
  apply BitVec.eq_of_toNat_eq
  rw [le32, BitVec.toNat_ofNat, leNat_leBytes]
  have := x.isLt
  omega

theorem leBytes_le16 {b : List Byte} (h : b.length = 2) : leBytes 2 (le16 b).toNat = b := by
  have hl := leNat_lt b
  rw [h] at hl
  rw [le16, BitVec.toNat_ofNat, Nat.mod_eq_of_lt (by omega)]
  conv_lhs => rw [← h]
  exact leBytes_leNat b

theorem leBytes_le32 {b : List Byte} (h : b.length = 4) : leBytes 4 (le32 b).toNat = b := by
  have hl := leNat_lt b
  rw [h] at hl
  rw [le32, BitVec.toNat_ofNat, Nat.mod_eq_of_lt (by omega)]
  conv_lhs => rw [← h]
  exact leBytes_leNat b

/-- `le_16` and `le_32` as concatenations, the first byte least significant (R45). -/
theorem le16_eq_append (b0 b1 : Byte) : le16 [b0, b1] = b1 ++ b0 := by
  apply BitVec.eq_of_toNat_eq
  have h0 := b0.isLt
  have h1 := b1.isLt
  simp only [le16, leNat, BitVec.toNat_ofNat, BitVec.toNat_append]
  rw [Nat.shiftLeft_eq, Nat.or_comm, ← Nat.shiftLeft_eq, Nat.or_comm, ← Nat.shiftLeft_add_eq_or_of_lt h0]
  rw [Nat.shiftLeft_eq]
  omega

theorem le32_eq_append (b0 b1 b2 b3 : Byte) : le32 [b0, b1, b2, b3] = b3 ++ b2 ++ b1 ++ b0 := by
  apply BitVec.eq_of_toNat_eq
  have h0 := b0.isLt
  have h1 := b1.isLt
  have h2 := b2.isLt
  have h3 := b3.isLt
  simp only [le32, leNat, BitVec.toNat_ofNat, BitVec.toNat_append]
  rw [← Nat.shiftLeft_add_eq_or_of_lt h0, ← Nat.shiftLeft_add_eq_or_of_lt h1, ← Nat.shiftLeft_add_eq_or_of_lt h2]
  simp only [Nat.shiftLeft_eq]
  omega

/-! ## The header -/

@[simp] theorem Header.bytes_length (h : Header) : h.bytes.length = 34 := by simp [Header.bytes]

theorem slice_append_left {p n : Nat} {a b : List Byte} (h : p + n ≤ a.length) : slice p n (a ++ b) = slice p n a := by
  unfold slice
  rw [List.drop_append_of_le_length (by omega), List.take_append_of_le_length (by rw [List.length_drop]; omega)]

theorem slice_append_skip {p n : Nat} {a b : List Byte} (h : a.length ≤ p) : slice p n (a ++ b) = slice (p - a.length) n b := by
  unfold slice
  rw [List.drop_append, List.drop_eq_nil_of_le h, List.nil_append]

theorem slice_whole {n : Nat} {a : List Byte} (h : a.length = n) : slice 0 n a = a := by
  simp [slice, ← h]

theorem slice_length {p n : Nat} {a : List Byte} (h : p + n ≤ a.length) : (slice p n a).length = n := by
  simp only [slice, List.length_take, List.length_drop]
  omega

/-- The bytes of each field of a header, wherever more of the stream follows it. -/
theorem Header.slices (h : Header) (r : List Byte) :
    slice 0 2 (h.bytes ++ r) = leBytes 2 h.sig.toNat ∧
    slice 2 4 (h.bytes ++ r) = leBytes 4 h.fileSize.toNat ∧
    slice 6 4 (h.bytes ++ r) = leBytes 4 h.reserved.toNat ∧
    slice 10 4 (h.bytes ++ r) = leBytes 4 h.dataOffset.toNat ∧
    slice 14 4 (h.bytes ++ r) = leBytes 4 h.dibSize.toNat ∧
    slice 18 4 (h.bytes ++ r) = leBytes 4 h.width.toNat ∧
    slice 22 4 (h.bytes ++ r) = leBytes 4 h.height.toNat ∧
    slice 26 2 (h.bytes ++ r) = leBytes 2 h.planes.toNat ∧
    slice 28 2 (h.bytes ++ r) = leBytes 2 h.bitDepth.toNat ∧
    slice 30 4 (h.bytes ++ r) = leBytes 4 h.compression.toNat := by
  simp only [Header.bytes, leBytes, slice, List.cons_append, List.nil_append, List.drop_succ_cons, List.drop_zero,
    List.take_succ_cons, List.take_zero, and_self]

/-- Reading the fields of a header's bytes gives the header back. -/
theorem Header.ofBytes_bytes_append (h : Header) (r : List Byte) : Header.ofBytes (h.bytes ++ r) = h := by
  obtain ⟨e0, e1, e2, e3, e4, e5, e6, e7, e8, e9⟩ := h.slices r
  simp only [Header.ofBytes, e0, e1, e2, e3, e4, e5, e6, e7, e8, e9, le16_leBytes, le32_leBytes]

theorem Header.ofBytes_bytes (h : Header) : Header.ofBytes h.bytes = h := by
  simpa using h.ofBytes_bytes_append []

/-- Writing the fields of 34 bytes gives the bytes back. -/
theorem Header.bytes_ofBytes {b : List Byte} (h : b.length = 34) : (Header.ofBytes b).bytes = b := by
  have hs2 : ∀ p, p + 2 ≤ 34 → (slice p 2 b).length = 2 := fun p hp => slice_length (by omega)
  have hs4 : ∀ p, p + 4 ≤ 34 → (slice p 4 b).length = 4 := fun p hp => slice_length (by omega)
  simp only [Header.bytes, Header.ofBytes]
  rw [leBytes_le16 (hs2 0 (by omega)), leBytes_le32 (hs4 2 (by omega)), leBytes_le32 (hs4 6 (by omega)),
    leBytes_le32 (hs4 10 (by omega)), leBytes_le32 (hs4 14 (by omega)), leBytes_le32 (hs4 18 (by omega)),
    leBytes_le32 (hs4 22 (by omega)), leBytes_le16 (hs2 26 (by omega)), leBytes_le16 (hs2 28 (by omega)),
    leBytes_le32 (hs4 30 (by omega))]
  have join : ∀ p n q, q = p + n → b.take p ++ slice p n b = b.take q := by
    intro p n q hq
    rw [hq, slice, List.take_add]
  have h0 : slice 0 2 b = b.take 2 := rfl
  rw [h0, join 2 4 6 rfl, join 6 4 10 rfl, join 10 4 14 rfl, join 14 4 18 rfl, join 18 4 22 rfl, join 22 4 26 rfl,
    join 26 2 28 rfl, join 28 2 30 rfl, join 30 4 34 rfl, List.take_of_length_le (by omega)]

/-- What `accepted` says of each field (R62). -/
theorem Header.accepted_iff (h : Header) :
    h.accepted = true ↔ h.sig = 0x4D42 ∧ h.planes = 1 ∧ h.bitDepth = 24 ∧ h.compression = 0 := by
  simp [Header.accepted, and_assoc]

/-- The decoder accepts exactly the accepted headers (R62). -/
theorem decodeHeader_ok_iff (b : List Byte) (i : Instr) :
    decodeHeader b = .ok i ↔ b.length = 34 ∧ (Header.ofBytes b).accepted = true ∧ i = .bmp24 (Header.ofBytes b) := by
  rw [Header.accepted_iff]
  unfold decodeHeader
  constructor
  · intro h
    repeat' split at h
    all_goals simp_all
  · rintro ⟨hl, ⟨h1, h2, h3, h4⟩, rfl⟩
    simp [hl, h1, h2, h3, h4]

theorem Header.ofBytes_take (b : List Byte) : Header.ofBytes (b.take 34) = Header.ofBytes b := by
  have hs : ∀ p n, p + n ≤ 34 → slice p n (b.take 34) = slice p n b := by
    intro p n h
    unfold slice
    rw [List.drop_take, List.take_take, Nat.min_eq_left (by omega)]
  simp only [Header.ofBytes]
  rw [hs 0 2 (by omega), hs 2 4 (by omega), hs 6 4 (by omega), hs 10 4 (by omega), hs 14 4 (by omega),
    hs 18 4 (by omega), hs 22 4 (by omega), hs 26 2 (by omega), hs 28 2 (by omega), hs 30 4 (by omega)]

/-! ## Commands and phases -/

theorem commandWord_parts (w : Word) : commandWord (commandOp w) (commandArg w).toNat = w := by
  simp only [commandWord, commandOp, commandArg, BitVec.ofNat_toNat, BitVec.setWidth_eq]
  exact BitVec.extractLsb'_append_extractLsb'

/-- Every command word that is not refused (R71). -/
theorem decodeCommand_cases {w : Word} {i : Instr} (h : decodeCommand w = .ok i) :
    (i = .start ∧ w = 0x00000001) ∨ ∃ f, f < 2 ^ 24 ∧ i = .frd f ∧ w = commandWord 0x02 f := by
  unfold decodeCommand at h
  have hp := commandWord_parts w
  split at h
  · rename_i ho
    split at h
    · rename_i ha
      rw [ho, ha] at hp
      exact .inl ⟨by simpa using h.symm, hp.symm⟩
    · simp at h
  · split at h
    · rename_i ho
      rw [ho] at hp
      exact .inr ⟨(commandArg w).toNat, (commandArg w).isLt, by simpa using h.symm, hp.symm⟩
    · simp at h

/-- A `PHASE` code decodes to the operation of its phase; the resting states have none (R11, R72). -/
theorem decode_phase_code (p : Phase) :
    decode (.phase p.code) = match p.operation with
      | none => .error .restingPhase
      | some i => .ok i := by
  cases p <;> rfl

theorem operation_of_decode {p : Phase} {i : Instr} (h : decode (.phase p.code) = .ok i) : p.operation = some i := by
  rw [decode_phase_code] at h
  split at h
  · cases h
  · injection h with h
    subst h
    assumption

/-- The sequencer never runs a host command or the whole header. -/
theorem operation_ne {p : Phase} {i : Instr} (h : p.operation = some i) :
    i ≠ .start ∧ (∀ f, i ≠ .frd f) ∧ ∀ hd, i ≠ .bmp24 hd := by
  cases p <;> simp only [Phase.operation, Option.some.injEq, reduceCtorEq] at h <;> (subst h; simp)

end Sys2Proof
end

