-- ==== Sys2Proof/Laws/Memory.lean ====
section
/-! SUPPORT. The laws of `FRAME`: read after write, the canonical form, ranges. -/

namespace Sys2Proof.Machine

@[simp] theorem Memory.read_nil (a : Nat) : Memory.read [] a = none := rfl

theorem Memory.read_write_self (m : Memory) (a : Nat) (b : Byte) : (m.write a b).read a = some b := by
  induction m with
  | nil => simp [Memory.write, Memory.read]
  | cons c m ih =>
    simp only [Memory.write]
    split
    · simp [Memory.read]
    · split
      · simp [Memory.read]
      · simp [Memory.read, *]

theorem Memory.read_write_ne (m : Memory) {a x : Nat} (b : Byte) (h : x ≠ a) :
    (m.write a b).read x = m.read x := by
  induction m with
  | nil => simp [Memory.write, Memory.read, h]
  | cons c m ih =>
    simp only [Memory.write]
    split
    · simp [Memory.read, h]
    · split
      · rename_i hc
        subst hc
        simp [Memory.read, h]
      · simp [Memory.read, ih]

theorem Memory.read_write (m : Memory) (a x : Nat) (b : Byte) :
    (m.write a b).read x = if x = a then some b else m.read x := by
  split
  · rename_i h
    exact h ▸ Memory.read_write_self m a b
  · rename_i h
    exact Memory.read_write_ne m b h

/-- What a store of several bytes leaves, at every address. -/
theorem Memory.read_writeBytes (m : Memory) (a : Nat) (v : List Byte) (x : Nat) :
    (m.writeBytes a v).read x = if a ≤ x ∧ x < a + v.length then v[x - a]? else m.read x := by
  induction v generalizing m a with
  | nil =>
    have h : ¬(a ≤ x ∧ x < a + ([] : List Byte).length) := by
      simp only [List.length_nil]
      omega
    simp [Memory.writeBytes]
  | cons b bs ih =>
    simp only [Memory.writeBytes, ih, Memory.read_write, List.length_cons]
    by_cases hx : x = a
    · subst hx
      simp
    · by_cases h : a ≤ x ∧ x < a + (bs.length + 1)
      · have h1 : a + 1 ≤ x ∧ x < a + 1 + bs.length := by omega
        rw [if_pos h1, if_pos h]
        obtain ⟨k, rfl⟩ : ∃ k, x = a + 1 + k := ⟨x - (a + 1), by omega⟩
        have e1 : a + 1 + k - (a + 1) = k := by omega
        have e2 : a + 1 + k - a = k + 1 := by omega
        rw [e1, e2, List.getElem?_cons_succ]
      · have h1 : ¬(a + 1 ≤ x ∧ x < a + 1 + bs.length) := by omega
        rw [if_neg h1, if_neg h, if_neg hx]

theorem Memory.read_writeBytes_outside (m : Memory) {a x : Nat} (v : List Byte) (h : x < a ∨ a + v.length ≤ x) :
    (m.writeBytes a v).read x = m.read x := by
  rw [Memory.read_writeBytes, if_neg (by omega)]

theorem Memory.read_writeBytes_inside (m : Memory) {a k : Nat} (v : List Byte) (h : k < v.length) :
    (m.writeBytes a v).read (a + k) = v[k]? := by
  rw [Memory.read_writeBytes, if_pos (by omega)]
  congr 1
  omega

theorem Memory.read_writeBytes_zeros (m : Memory) {a n x : Nat} (h : a ≤ x ∧ x < a + n) :
    (m.writeBytes a (zeros n)).read x = some 0 := by
  rw [Memory.read_writeBytes]
  have hl : (zeros n).length = n := List.length_replicate
  rw [hl, if_pos h, zeros, List.getElem?_replicate, if_pos (by omega)]

/-- A store leaves what held a value holding one. -/
theorem Memory.exists_read_writeBytes {m : Memory} {a x : Nat} {v : List Byte} (h : ∃ b, m.read x = some b) :
    ∃ b, (m.writeBytes a v).read x = some b := by
  rw [Memory.read_writeBytes]
  split
  · exact ⟨v[x - a]'(by omega), List.getElem?_eq_getElem (by omega)⟩
  · exact h

/-! ## The canonical form -/

theorem Memory.above_iff {lo : Nat} {m : Memory} : Memory.above lo m = true ↔ ∀ c ∈ m, lo < c.1 := by
  simp [Memory.above]

theorem Memory.mem_write {m : Memory} {a : Nat} {b : Byte} {c : Host.Cell} (h : c ∈ m.write a b) :
    c = (a, b) ∨ c ∈ m := by
  induction m with
  | nil => simpa [Memory.write] using h
  | cons d m ih =>
    simp only [Memory.write] at h
    split at h
    · simpa using h
    · split at h
      · simp only [List.mem_cons] at h ⊢
        tauto
      · simp only [List.mem_cons] at h ⊢
        rcases h with h | h
        · exact .inr (.inl h)
        · rcases ih h with h | h
          · exact .inl h
          · exact .inr (.inr h)

theorem Memory.wf_write {m : Memory} (a : Nat) (b : Byte) (h : m.wf = true) : (m.write a b).wf = true := by
  induction m with
  | nil => simp [Memory.write, Memory.wf, Memory.above]
  | cons c m ih =>
    simp only [Memory.wf, Bool.and_eq_true, Memory.above_iff] at h
    simp only [Memory.write]
    split
    · rename_i hac
      simp only [Memory.wf, Bool.and_eq_true, Memory.above_iff]
      refine ⟨?_, h.1, h.2⟩
      intro d hd
      rcases List.mem_cons.mp hd with rfl | hd
      · exact hac
      · exact lt_trans hac (h.1 d hd)
    · split
      · rename_i hac
        subst hac
        simp only [Memory.wf, Bool.and_eq_true, Memory.above_iff]
        exact ⟨h.1, h.2⟩
      · simp only [Memory.wf, Bool.and_eq_true, Memory.above_iff]
        refine ⟨?_, ih h.2⟩
        intro d hd
        rcases Memory.mem_write hd with rfl | hd
        · simp only
          omega
        · exact h.1 d hd

theorem Memory.wf_writeBytes {m : Memory} (a : Nat) (v : List Byte) (h : m.wf = true) :
    (m.writeBytes a v).wf = true := by
  induction v generalizing m a with
  | nil => exact h
  | cons b bs ih => exact ih (a + 1) (Memory.wf_write a b h)

theorem Memory.mem_writeBytes {m : Memory} {a : Nat} {v : List Byte} {c : Host.Cell} (h : c ∈ m.writeBytes a v) :
    (a ≤ c.1 ∧ c.1 < a + v.length) ∨ c ∈ m := by
  induction v generalizing m a with
  | nil => exact .inr h
  | cons b bs ih =>
    rcases ih h with h | h
    · simp only [List.length_cons]
      exact .inl (by omega)
    · rcases Memory.mem_write h with rfl | h
      · simp
      · exact .inr h

/-- A store inside the first `n` addresses keeps the list inside them. -/
theorem Memory.inRange_writeBytes {m : Memory} {a n : Nat} {v : List Byte} (hm : ∀ c ∈ m, c.1 < n)
    (ha : a + v.length ≤ n) : ∀ c ∈ m.writeBytes a v, c.1 < n := by
  intro c hc
  rcases Memory.mem_writeBytes hc with h | h
  · omega
  · exact hm c h

/-- Equal memories are equal data: two canonical lists that read alike are the same list. -/
theorem Memory.ext_of_wf {m n : Memory} (hm : m.wf = true) (hn : n.wf = true) (h : ∀ a, m.read a = n.read a) :
    m = n := by
  induction m generalizing n with
  | nil =>
    cases n with
    | nil => rfl
    | cons c n => simpa [Memory.read] using h c.1
  | cons c m ih =>
    cases n with
    | nil => simpa [Memory.read] using h c.1
    | cons d n =>
      simp only [Memory.wf, Bool.and_eq_true, Memory.above_iff] at hm hn
      have absent : ∀ {l : Memory} {a : Nat}, (∀ e ∈ l, a < e.1) → l.read a = none := by
        intro l a hl
        induction l with
        | nil => rfl
        | cons e l il =>
          have : ¬a = e.1 := by
            have := hl e (by simp)
            omega
          simp only [Memory.read, if_neg this]
          exact il fun x hx => hl x (by simp [hx])
      have hcd : c.1 = d.1 := by
        rcases Nat.lt_trichotomy c.1 d.1 with hlt | heq | hlt
        · have := h c.1
          simp only [Memory.read, if_neg (Nat.ne_of_lt hlt)] at this
          rw [absent fun e he => lt_trans hlt (hn.1 e he)] at this
          simp at this
        · exact heq
        · have := h d.1
          simp only [Memory.read, if_neg (Nat.ne_of_lt hlt)] at this
          rw [absent fun e he => lt_trans hlt (hm.1 e he)] at this
          simp at this
      have hv : c.2 = d.2 := by
        have := h c.1
        simpa [Memory.read, hcd] using this
      have hce : c = d := Prod.ext hcd hv
      subst hce
      congr 1
      refine ih hm.2 hn.2 fun a => ?_
      by_cases ha : a = c.1
      · subst ha
        rw [absent hm.1, absent hn.1]
      · have := h a
        simpa only [Memory.read, if_neg ha] using this

/-! ## Reading a frame -/

theorem Memory.readBytes_eq_some {m : Memory} {a n : Nat} {v : List Byte} (hl : v.length = n)
    (h : ∀ i, i < n → m.read (a + i) = v[i]?) : m.readBytes a n = some v := by
  induction n generalizing a v with
  | zero =>
    rw [List.length_eq_zero_iff] at hl
    subst hl
    rfl
  | succ n ih =>
    cases v with
    | nil => simp at hl
    | cons b bs =>
      have h0 := h 0 (by omega)
      have hs : m.readBytes (a + 1) n = some bs := by
        refine ih (by simpa using hl) fun i hi => ?_
        have := h (i + 1) (by omega)
        rw [List.getElem?_cons_succ] at this
        rw [← this]
        congr 1
        omega
      simp only [Nat.add_zero, List.getElem?_cons_zero] at h0
      simp [Memory.readBytes, h0, hs]

/-- A range that is filled reads whole. -/
theorem Memory.readBytes_of_filled {m : Memory} {a n : Nat} (h : ∀ i, i < n → ∃ b, m.read (a + i) = some b) :
    ∃ v : List Byte, v.length = n ∧ (∀ i, i < n → m.read (a + i) = v[i]?) ∧ m.readBytes a n = some v := by
  refine ⟨(List.range n).map fun i => (m.read (a + i)).getD 0, by simp, ?_, ?_⟩
  · intro i hi
    obtain ⟨b, hb⟩ := h i hi
    simp [hi, hb]
  · refine Memory.readBytes_eq_some (by simp) fun i hi => ?_
    obtain ⟨b, hb⟩ := h i hi
    simp [hi, hb]

end Sys2Proof.Machine
end

