-- ==== Sys2Proof/Laws/Operands.lean ====
section
/-! SUPPORT. What the operand forms compute: signed readings, strides, FRAME addresses, the output triple. -/

namespace Sys2Proof.Machine

theorem sint32_eq_toInt (u : Word) : sint32 u = u.toInt := by
  unfold sint32
  rw [BitVec.toInt_eq_toNat_cond]
  have := u.isLt
  split <;> split <;> omega

theorem rowOrderOf_eq_topDown (u : Word) : rowOrderOf u = .topDown ↔ u.toInt < 0 := by
  unfold rowOrderOf
  rw [sint32_eq_toInt]
  split <;> simp [*]

theorem heightMagnitude_toNat (u : Word) : (heightMagnitude u).toNat = u.toInt.natAbs := by
  unfold heightMagnitude
  rw [sint32_eq_toInt]
  have := u.isLt
  have h := BitVec.toInt_eq_toNat_cond u
  split
  · split at h <;> omega
  · split
    · rw [BitVec.toNat_ofNat]
      split at h <;> omega
    · have : u.toInt = 0 := by omega
      rw [this]
      rfl

theorem zext32_eq_setWidth (x : Half) : zext32 x = x.setWidth 32 := by
  apply BitVec.eq_of_toNat_eq
  simp [zext32]

theorem word_zero_iff (w : Word) : w = 0 ↔ w.toNat = 0 := by
  constructor
  · intro h
    rw [h]
    rfl
  · intro h
    apply BitVec.eq_of_toNat_eq
    simpa using h

/-- R107's stride is the least multiple of 4 that holds a row. -/
theorem rowStrideOf_bounds (w : Nat) : 4 ∣ rowStrideOf w ∧ 3 * w ≤ rowStrideOf w ∧ rowStrideOf w ≤ 3 * w + 3 := by
  unfold rowStrideOf
  omega

theorem rowStrideOf_toNat (w : Word) : (BitVec.ofNat 64 (rowStrideOf w.toNat)).toNat = rowStrideOf w.toNat := by
  have := rowStrideOf_bounds w.toNat
  have := w.isLt
  rw [BitVec.toNat_ofNat]
  omega

theorem blankFrames_eq (c : Config) : blankFrames c = if c.loop = false then 1 else 0 := by
  unfold blankFrames
  cases c.loop <;> rfl

/-! ## FRAME addresses -/

theorem zeros_length (n : Nat) : (zeros n).length = n := List.length_replicate

theorem frameBytes_eq (c : Config) : frameBytes c = c.maxFrames.toNat * frameLength c := by
  simp only [frameBytes, frameLength]
  ring

theorem frames_inRange {c : Config} {w : Nat} (h : w ≤ c.maxFrames.toNat) : w * frameLength c ≤ frameBytes c := by
  rw [frameBytes_eq]
  exact Nat.mul_le_mul_right _ h

theorem pixel_inFrames {c : Config} {w f p k : Nat} (hf : f < w) (hp : p < c.stripLength.toNat) (hk : k < 3) :
    frameAddress c f p + k < w * frameLength c := by
  unfold frameAddress frameLength
  have h : (f + 1) * c.stripLength.toNat ≤ w * c.stripLength.toNat := Nat.mul_le_mul_right _ hf
  rw [Nat.add_mul] at h
  have e : w * (3 * c.stripLength.toNat) = w * c.stripLength.toNat * 3 := by ring
  omega

theorem pixel_inRange {c : Config} {f p : Nat} (hf : f < c.maxFrames.toNat) (hp : p < c.stripLength.toNat) :
    frameAddress c f p + 3 ≤ frameBytes c := by
  have := pixel_inFrames (k := 2) hf hp (by omega)
  rw [frameBytes_eq]
  omega

/-- Two pixels of FRAME do not overlap. -/
theorem frameAddress_apart {c : Config} {f p f' p' : Nat} (hp : p < c.stripLength.toNat)
    (hp' : p' < c.stripLength.toNat) (h : f ≠ f' ∨ p ≠ p') :
    frameAddress c f p + 3 ≤ frameAddress c f' p' ∨ frameAddress c f' p' + 3 ≤ frameAddress c f p := by
  unfold frameAddress
  have : f * c.stripLength.toNat + p ≠ f' * c.stripLength.toNat + p' := by
    intro he
    rcases Nat.lt_trichotomy f f' with hl | hl | hl
    · have : (f + 1) * c.stripLength.toNat ≤ f' * c.stripLength.toNat := Nat.mul_le_mul_right _ hl
      rw [Nat.add_mul] at this
      omega
    · subst hl
      omega
    · have : (f' + 1) * c.stripLength.toNat ≤ f * c.stripLength.toNat := Nat.mul_le_mul_right _ hl
      rw [Nat.add_mul] at this
      omega
  omega

/-! ## The register words of a 64-bit register -/

theorem hiWord_append_loWord (v : BitVec 64) : hiWord v ++ loWord v = v := BitVec.extractLsb'_append_extractLsb'

end Sys2Proof.Machine
end

