-- ==== Sys2Proof/Laws/State.lean ====
section
/-! SUPPORT. One lemma per field of each named update of `State`, so that no later proof unfolds a record update. -/

namespace Sys2Proof.Machine

@[simp] theorem trapEntry_config (c : Cause) (value io : Word) (pos : Pos) (s : State) :
    (trapEntry c value io pos s).config = s.config := rfl
@[simp] theorem trapEntry_phase (c : Cause) (value io : Word) (pos : Pos) (s : State) :
    (trapEntry c value io pos s).phase = .error := rfl
@[simp] theorem trapEntry_row (c : Cause) (value io : Word) (pos : Pos) (s : State) :
    (trapEntry c value io pos s).row = s.row := rfl
@[simp] theorem trapEntry_col (c : Cause) (value io : Word) (pos : Pos) (s : State) :
    (trapEntry c value io pos s).col = s.col := rfl
@[simp] theorem trapEntry_sig (c : Cause) (value io : Word) (pos : Pos) (s : State) :
    (trapEntry c value io pos s).sig = s.sig := rfl
@[simp] theorem trapEntry_dataOffset (c : Cause) (value io : Word) (pos : Pos) (s : State) :
    (trapEntry c value io pos s).dataOffset = s.dataOffset := rfl
@[simp] theorem trapEntry_widthRaw (c : Cause) (value io : Word) (pos : Pos) (s : State) :
    (trapEntry c value io pos s).widthRaw = s.widthRaw := rfl
@[simp] theorem trapEntry_heightRaw (c : Cause) (value io : Word) (pos : Pos) (s : State) :
    (trapEntry c value io pos s).heightRaw = s.heightRaw := rfl
@[simp] theorem trapEntry_planes (c : Cause) (value io : Word) (pos : Pos) (s : State) :
    (trapEntry c value io pos s).planes = s.planes := rfl
@[simp] theorem trapEntry_bitDepth (c : Cause) (value io : Word) (pos : Pos) (s : State) :
    (trapEntry c value io pos s).bitDepth = s.bitDepth := rfl
@[simp] theorem trapEntry_compression (c : Cause) (value io : Word) (pos : Pos) (s : State) :
    (trapEntry c value io pos s).compression = s.compression := rfl
@[simp] theorem trapEntry_height (c : Cause) (value io : Word) (pos : Pos) (s : State) :
    (trapEntry c value io pos s).height = s.height := rfl
@[simp] theorem trapEntry_width (c : Cause) (value io : Word) (pos : Pos) (s : State) :
    (trapEntry c value io pos s).width = s.width := rfl
@[simp] theorem trapEntry_rowStride (c : Cause) (value io : Word) (pos : Pos) (s : State) :
    (trapEntry c value io pos s).rowStride = s.rowStride := rfl
@[simp] theorem trapEntry_clipH (c : Cause) (value io : Word) (pos : Pos) (s : State) :
    (trapEntry c value io pos s).clipH = s.clipH := rfl
@[simp] theorem trapEntry_frameTotal (c : Cause) (value io : Word) (pos : Pos) (s : State) :
    (trapEntry c value io pos s).frameTotal = s.frameTotal := rfl
@[simp] theorem trapEntry_pix (c : Cause) (value io : Word) (pos : Pos) (s : State) :
    (trapEntry c value io pos s).pix = s.pix := rfl
@[simp] theorem trapEntry_cor (c : Cause) (value io : Word) (pos : Pos) (s : State) :
    (trapEntry c value io pos s).cor = s.cor := rfl
@[simp] theorem trapEntry_out (c : Cause) (value io : Word) (pos : Pos) (s : State) :
    (trapEntry c value io pos s).out = s.out := rfl
@[simp] theorem trapEntry_spos (c : Cause) (value io : Word) (pos : Pos) (s : State) :
    (trapEntry c value io pos s).spos = s.spos := rfl
@[simp] theorem trapEntry_rowOrder (c : Cause) (value io : Word) (pos : Pos) (s : State) :
    (trapEntry c value io pos s).rowOrder = s.rowOrder := rfl
@[simp] theorem trapEntry_cmdErr (c : Cause) (value io : Word) (pos : Pos) (s : State) :
    (trapEntry c value io pos s).cmdErr = s.cmdErr := rfl
@[simp] theorem trapEntry_errCode (c : Cause) (value io : Word) (pos : Pos) (s : State) :
    (trapEntry c value io pos s).errCode = c.code := rfl
@[simp] theorem trapEntry_errIo (c : Cause) (value io : Word) (pos : Pos) (s : State) :
    (trapEntry c value io pos s).errIo = io := rfl
@[simp] theorem trapEntry_errValue (c : Cause) (value io : Word) (pos : Pos) (s : State) :
    (trapEntry c value io pos s).errValue = value := rfl
@[simp] theorem trapEntry_errPos (c : Cause) (value io : Word) (pos : Pos) (s : State) :
    (trapEntry c value io pos s).errPos = pos := rfl
@[simp] theorem trapEntry_frameCount (c : Cause) (value io : Word) (pos : Pos) (s : State) :
    (trapEntry c value io pos s).frameCount = 0 := rfl
@[simp] theorem trapEntry_frame (c : Cause) (value io : Word) (pos : Pos) (s : State) :
    (trapEntry c value io pos s).frame = s.frame := rfl
@[simp] theorem trapEntry_stream (c : Cause) (value io : Word) (pos : Pos) (s : State) :
    (trapEntry c value io pos s).stream = s.stream := rfl
@[simp] theorem trapEntry_trace (c : Cause) (value io : Word) (pos : Pos) (s : State) :
    (trapEntry c value io pos s).trace = s.trace := rfl
@[simp] theorem trapEntry_inputs (c : Cause) (value io : Word) (pos : Pos) (s : State) :
    (trapEntry c value io pos s).inputs = s.inputs := rfl
@[simp] theorem trapEntry_answer (c : Cause) (value io : Word) (pos : Pos) (s : State) :
    (trapEntry c value io pos s).answer = s.answer := rfl

@[simp] theorem beginLoad_config (s : State) :
    (beginLoad s).config = s.config := rfl
@[simp] theorem beginLoad_phase (s : State) :
    (beginLoad s).phase = .hseek := rfl
@[simp] theorem beginLoad_row (s : State) :
    (beginLoad s).row = 0 := rfl
@[simp] theorem beginLoad_col (s : State) :
    (beginLoad s).col = 0 := rfl
@[simp] theorem beginLoad_sig (s : State) :
    (beginLoad s).sig = 0 := rfl
@[simp] theorem beginLoad_dataOffset (s : State) :
    (beginLoad s).dataOffset = 0 := rfl
@[simp] theorem beginLoad_widthRaw (s : State) :
    (beginLoad s).widthRaw = 0 := rfl
@[simp] theorem beginLoad_heightRaw (s : State) :
    (beginLoad s).heightRaw = 0 := rfl
@[simp] theorem beginLoad_planes (s : State) :
    (beginLoad s).planes = 0 := rfl
@[simp] theorem beginLoad_bitDepth (s : State) :
    (beginLoad s).bitDepth = 0 := rfl
@[simp] theorem beginLoad_compression (s : State) :
    (beginLoad s).compression = 0 := rfl
@[simp] theorem beginLoad_height (s : State) :
    (beginLoad s).height = 0 := rfl
@[simp] theorem beginLoad_width (s : State) :
    (beginLoad s).width = 0 := rfl
@[simp] theorem beginLoad_rowStride (s : State) :
    (beginLoad s).rowStride = 0 := rfl
@[simp] theorem beginLoad_clipH (s : State) :
    (beginLoad s).clipH = 0 := rfl
@[simp] theorem beginLoad_frameTotal (s : State) :
    (beginLoad s).frameTotal = 0 := rfl
@[simp] theorem beginLoad_pix (s : State) :
    (beginLoad s).pix = Triple.zero := rfl
@[simp] theorem beginLoad_cor (s : State) :
    (beginLoad s).cor = Triple.zero := rfl
@[simp] theorem beginLoad_out (s : State) :
    (beginLoad s).out = Triple.zero := rfl
@[simp] theorem beginLoad_spos (s : State) :
    (beginLoad s).spos = 0 := rfl
@[simp] theorem beginLoad_rowOrder (s : State) :
    (beginLoad s).rowOrder = .topDown := rfl
@[simp] theorem beginLoad_cmdErr (s : State) :
    (beginLoad s).cmdErr = false := rfl
@[simp] theorem beginLoad_errCode (s : State) :
    (beginLoad s).errCode = 0 := rfl
@[simp] theorem beginLoad_errIo (s : State) :
    (beginLoad s).errIo = 0 := rfl
@[simp] theorem beginLoad_errValue (s : State) :
    (beginLoad s).errValue = 0 := rfl
@[simp] theorem beginLoad_errPos (s : State) :
    (beginLoad s).errPos = 0 := rfl
@[simp] theorem beginLoad_frameCount (s : State) :
    (beginLoad s).frameCount = 0 := rfl
@[simp] theorem beginLoad_frame (s : State) :
    (beginLoad s).frame = s.frame := rfl
@[simp] theorem beginLoad_stream (s : State) :
    (beginLoad s).stream = s.stream := rfl
@[simp] theorem beginLoad_trace (s : State) :
    (beginLoad s).trace = [] := rfl
@[simp] theorem beginLoad_inputs (s : State) :
    (beginLoad s).inputs = s.inputs := rfl
@[simp] theorem beginLoad_answer (s : State) :
    (beginLoad s).answer = s.answer := rfl

@[simp] theorem refuseCommand_config (s : State) :
    (refuseCommand s).config = s.config := rfl
@[simp] theorem refuseCommand_phase (s : State) :
    (refuseCommand s).phase = s.phase := rfl
@[simp] theorem refuseCommand_row (s : State) :
    (refuseCommand s).row = s.row := rfl
@[simp] theorem refuseCommand_col (s : State) :
    (refuseCommand s).col = s.col := rfl
@[simp] theorem refuseCommand_sig (s : State) :
    (refuseCommand s).sig = s.sig := rfl
@[simp] theorem refuseCommand_dataOffset (s : State) :
    (refuseCommand s).dataOffset = s.dataOffset := rfl
@[simp] theorem refuseCommand_widthRaw (s : State) :
    (refuseCommand s).widthRaw = s.widthRaw := rfl
@[simp] theorem refuseCommand_heightRaw (s : State) :
    (refuseCommand s).heightRaw = s.heightRaw := rfl
@[simp] theorem refuseCommand_planes (s : State) :
    (refuseCommand s).planes = s.planes := rfl
@[simp] theorem refuseCommand_bitDepth (s : State) :
    (refuseCommand s).bitDepth = s.bitDepth := rfl
@[simp] theorem refuseCommand_compression (s : State) :
    (refuseCommand s).compression = s.compression := rfl
@[simp] theorem refuseCommand_height (s : State) :
    (refuseCommand s).height = s.height := rfl
@[simp] theorem refuseCommand_width (s : State) :
    (refuseCommand s).width = s.width := rfl
@[simp] theorem refuseCommand_rowStride (s : State) :
    (refuseCommand s).rowStride = s.rowStride := rfl
@[simp] theorem refuseCommand_clipH (s : State) :
    (refuseCommand s).clipH = s.clipH := rfl
@[simp] theorem refuseCommand_frameTotal (s : State) :
    (refuseCommand s).frameTotal = s.frameTotal := rfl
@[simp] theorem refuseCommand_pix (s : State) :
    (refuseCommand s).pix = s.pix := rfl
@[simp] theorem refuseCommand_cor (s : State) :
    (refuseCommand s).cor = s.cor := rfl
@[simp] theorem refuseCommand_out (s : State) :
    (refuseCommand s).out = s.out := rfl
@[simp] theorem refuseCommand_spos (s : State) :
    (refuseCommand s).spos = s.spos := rfl
@[simp] theorem refuseCommand_rowOrder (s : State) :
    (refuseCommand s).rowOrder = s.rowOrder := rfl
@[simp] theorem refuseCommand_cmdErr (s : State) :
    (refuseCommand s).cmdErr = true := rfl
@[simp] theorem refuseCommand_errCode (s : State) :
    (refuseCommand s).errCode = s.errCode := rfl
@[simp] theorem refuseCommand_errIo (s : State) :
    (refuseCommand s).errIo = s.errIo := rfl
@[simp] theorem refuseCommand_errValue (s : State) :
    (refuseCommand s).errValue = s.errValue := rfl
@[simp] theorem refuseCommand_errPos (s : State) :
    (refuseCommand s).errPos = s.errPos := rfl
@[simp] theorem refuseCommand_frameCount (s : State) :
    (refuseCommand s).frameCount = s.frameCount := rfl
@[simp] theorem refuseCommand_frame (s : State) :
    (refuseCommand s).frame = s.frame := rfl
@[simp] theorem refuseCommand_stream (s : State) :
    (refuseCommand s).stream = s.stream := rfl
@[simp] theorem refuseCommand_trace (s : State) :
    (refuseCommand s).trace = s.trace := rfl
@[simp] theorem refuseCommand_inputs (s : State) :
    (refuseCommand s).inputs = s.inputs := rfl
@[simp] theorem refuseCommand_answer (s : State) :
    (refuseCommand s).answer = s.answer := rfl

@[simp] theorem assertReset_config (s : State) :
    (assertReset s).config = s.config := rfl
@[simp] theorem assertReset_phase (s : State) :
    (assertReset s).phase = .idle := rfl
@[simp] theorem assertReset_row (s : State) :
    (assertReset s).row = 0 := rfl
@[simp] theorem assertReset_col (s : State) :
    (assertReset s).col = 0 := rfl
@[simp] theorem assertReset_sig (s : State) :
    (assertReset s).sig = 0 := rfl
@[simp] theorem assertReset_dataOffset (s : State) :
    (assertReset s).dataOffset = 0 := rfl
@[simp] theorem assertReset_widthRaw (s : State) :
    (assertReset s).widthRaw = 0 := rfl
@[simp] theorem assertReset_heightRaw (s : State) :
    (assertReset s).heightRaw = 0 := rfl
@[simp] theorem assertReset_planes (s : State) :
    (assertReset s).planes = 0 := rfl
@[simp] theorem assertReset_bitDepth (s : State) :
    (assertReset s).bitDepth = 0 := rfl
@[simp] theorem assertReset_compression (s : State) :
    (assertReset s).compression = 0 := rfl
@[simp] theorem assertReset_height (s : State) :
    (assertReset s).height = 0 := rfl
@[simp] theorem assertReset_width (s : State) :
    (assertReset s).width = 0 := rfl
@[simp] theorem assertReset_rowStride (s : State) :
    (assertReset s).rowStride = 0 := rfl
@[simp] theorem assertReset_clipH (s : State) :
    (assertReset s).clipH = 0 := rfl
@[simp] theorem assertReset_frameTotal (s : State) :
    (assertReset s).frameTotal = 0 := rfl
@[simp] theorem assertReset_pix (s : State) :
    (assertReset s).pix = Triple.zero := rfl
@[simp] theorem assertReset_cor (s : State) :
    (assertReset s).cor = Triple.zero := rfl
@[simp] theorem assertReset_out (s : State) :
    (assertReset s).out = Triple.zero := rfl
@[simp] theorem assertReset_spos (s : State) :
    (assertReset s).spos = 0 := rfl
@[simp] theorem assertReset_rowOrder (s : State) :
    (assertReset s).rowOrder = .topDown := rfl
@[simp] theorem assertReset_cmdErr (s : State) :
    (assertReset s).cmdErr = false := rfl
@[simp] theorem assertReset_errCode (s : State) :
    (assertReset s).errCode = 0 := rfl
@[simp] theorem assertReset_errIo (s : State) :
    (assertReset s).errIo = 0 := rfl
@[simp] theorem assertReset_errValue (s : State) :
    (assertReset s).errValue = 0 := rfl
@[simp] theorem assertReset_errPos (s : State) :
    (assertReset s).errPos = 0 := rfl
@[simp] theorem assertReset_frameCount (s : State) :
    (assertReset s).frameCount = 0 := rfl
@[simp] theorem assertReset_frame (s : State) :
    (assertReset s).frame = [] := rfl
@[simp] theorem assertReset_stream (s : State) :
    (assertReset s).stream = s.stream := rfl
@[simp] theorem assertReset_trace (s : State) :
    (assertReset s).trace = s.trace := rfl
@[simp] theorem assertReset_inputs (s : State) :
    (assertReset s).inputs = s.inputs := rfl
@[simp] theorem assertReset_answer (s : State) :
    (assertReset s).answer = s.answer := rfl

@[simp] theorem clipRegisters_config (s : State) :
    (clipRegisters s).config = s.config := rfl
@[simp] theorem clipRegisters_phase (s : State) :
    (clipRegisters s).phase = s.phase := rfl
@[simp] theorem clipRegisters_row (s : State) :
    (clipRegisters s).row = s.row := rfl
@[simp] theorem clipRegisters_col (s : State) :
    (clipRegisters s).col = s.col := rfl
@[simp] theorem clipRegisters_sig (s : State) :
    (clipRegisters s).sig = s.sig := rfl
@[simp] theorem clipRegisters_dataOffset (s : State) :
    (clipRegisters s).dataOffset = s.dataOffset := rfl
@[simp] theorem clipRegisters_widthRaw (s : State) :
    (clipRegisters s).widthRaw = s.widthRaw := rfl
@[simp] theorem clipRegisters_heightRaw (s : State) :
    (clipRegisters s).heightRaw = s.heightRaw := rfl
@[simp] theorem clipRegisters_planes (s : State) :
    (clipRegisters s).planes = s.planes := rfl
@[simp] theorem clipRegisters_bitDepth (s : State) :
    (clipRegisters s).bitDepth = s.bitDepth := rfl
@[simp] theorem clipRegisters_compression (s : State) :
    (clipRegisters s).compression = s.compression := rfl
@[simp] theorem clipRegisters_height (s : State) :
    (clipRegisters s).height = s.height := rfl
@[simp] theorem clipRegisters_width (s : State) :
    (clipRegisters s).width = s.width := rfl
@[simp] theorem clipRegisters_rowStride (s : State) :
    (clipRegisters s).rowStride = s.rowStride := rfl
@[simp] theorem clipRegisters_clipH (s : State) :
    (clipRegisters s).clipH = BitVec.ofNat 32 (clippedHeight s.config s.height) := rfl
@[simp] theorem clipRegisters_frameTotal (s : State) :
    (clipRegisters s).frameTotal = BitVec.ofNat 32 (frameTotalOf s.config s.width) := rfl
@[simp] theorem clipRegisters_pix (s : State) :
    (clipRegisters s).pix = s.pix := rfl
@[simp] theorem clipRegisters_cor (s : State) :
    (clipRegisters s).cor = s.cor := rfl
@[simp] theorem clipRegisters_out (s : State) :
    (clipRegisters s).out = s.out := rfl
@[simp] theorem clipRegisters_spos (s : State) :
    (clipRegisters s).spos = s.spos := rfl
@[simp] theorem clipRegisters_rowOrder (s : State) :
    (clipRegisters s).rowOrder = s.rowOrder := rfl
@[simp] theorem clipRegisters_cmdErr (s : State) :
    (clipRegisters s).cmdErr = s.cmdErr := rfl
@[simp] theorem clipRegisters_errCode (s : State) :
    (clipRegisters s).errCode = s.errCode := rfl
@[simp] theorem clipRegisters_errIo (s : State) :
    (clipRegisters s).errIo = s.errIo := rfl
@[simp] theorem clipRegisters_errValue (s : State) :
    (clipRegisters s).errValue = s.errValue := rfl
@[simp] theorem clipRegisters_errPos (s : State) :
    (clipRegisters s).errPos = s.errPos := rfl
@[simp] theorem clipRegisters_frameCount (s : State) :
    (clipRegisters s).frameCount = s.frameCount := rfl
@[simp] theorem clipRegisters_frame (s : State) :
    (clipRegisters s).frame = s.frame := rfl
@[simp] theorem clipRegisters_stream (s : State) :
    (clipRegisters s).stream = s.stream := rfl
@[simp] theorem clipRegisters_trace (s : State) :
    (clipRegisters s).trace = s.trace := rfl
@[simp] theorem clipRegisters_inputs (s : State) :
    (clipRegisters s).inputs = s.inputs := rfl
@[simp] theorem clipRegisters_answer (s : State) :
    (clipRegisters s).answer = s.answer := rfl

@[simp] theorem placeHeader_config (h : Header) (s : State) :
    (placeHeader h s).config = s.config := rfl
@[simp] theorem placeHeader_phase (h : Header) (s : State) :
    (placeHeader h s).phase = s.phase := rfl
@[simp] theorem placeHeader_row (h : Header) (s : State) :
    (placeHeader h s).row = s.row := rfl
@[simp] theorem placeHeader_col (h : Header) (s : State) :
    (placeHeader h s).col = s.col := rfl
@[simp] theorem placeHeader_sig (h : Header) (s : State) :
    (placeHeader h s).sig = s.sig := rfl
@[simp] theorem placeHeader_dataOffset (h : Header) (s : State) :
    (placeHeader h s).dataOffset = s.dataOffset := rfl
@[simp] theorem placeHeader_widthRaw (h : Header) (s : State) :
    (placeHeader h s).widthRaw = s.widthRaw := rfl
@[simp] theorem placeHeader_heightRaw (h : Header) (s : State) :
    (placeHeader h s).heightRaw = s.heightRaw := rfl
@[simp] theorem placeHeader_planes (h : Header) (s : State) :
    (placeHeader h s).planes = s.planes := rfl
@[simp] theorem placeHeader_bitDepth (h : Header) (s : State) :
    (placeHeader h s).bitDepth = s.bitDepth := rfl
@[simp] theorem placeHeader_compression (h : Header) (s : State) :
    (placeHeader h s).compression = s.compression := rfl
@[simp] theorem placeHeader_height (h : Header) (s : State) :
    (placeHeader h s).height = s.height := rfl
@[simp] theorem placeHeader_width (h : Header) (s : State) :
    (placeHeader h s).width = s.width := rfl
@[simp] theorem placeHeader_rowStride (h : Header) (s : State) :
    (placeHeader h s).rowStride = s.rowStride := rfl
@[simp] theorem placeHeader_clipH (h : Header) (s : State) :
    (placeHeader h s).clipH = s.clipH := rfl
@[simp] theorem placeHeader_frameTotal (h : Header) (s : State) :
    (placeHeader h s).frameTotal = s.frameTotal := rfl
@[simp] theorem placeHeader_pix (h : Header) (s : State) :
    (placeHeader h s).pix = s.pix := rfl
@[simp] theorem placeHeader_cor (h : Header) (s : State) :
    (placeHeader h s).cor = s.cor := rfl
@[simp] theorem placeHeader_out (h : Header) (s : State) :
    (placeHeader h s).out = s.out := rfl
@[simp] theorem placeHeader_spos (h : Header) (s : State) :
    (placeHeader h s).spos = s.spos := rfl
@[simp] theorem placeHeader_rowOrder (h : Header) (s : State) :
    (placeHeader h s).rowOrder = s.rowOrder := rfl
@[simp] theorem placeHeader_cmdErr (h : Header) (s : State) :
    (placeHeader h s).cmdErr = s.cmdErr := rfl
@[simp] theorem placeHeader_errCode (h : Header) (s : State) :
    (placeHeader h s).errCode = s.errCode := rfl
@[simp] theorem placeHeader_errIo (h : Header) (s : State) :
    (placeHeader h s).errIo = s.errIo := rfl
@[simp] theorem placeHeader_errValue (h : Header) (s : State) :
    (placeHeader h s).errValue = s.errValue := rfl
@[simp] theorem placeHeader_errPos (h : Header) (s : State) :
    (placeHeader h s).errPos = s.errPos := rfl
@[simp] theorem placeHeader_frameCount (h : Header) (s : State) :
    (placeHeader h s).frameCount = s.frameCount := rfl
@[simp] theorem placeHeader_frame (h : Header) (s : State) :
    (placeHeader h s).frame = s.frame := rfl
@[simp] theorem placeHeader_stream (h : Header) (s : State) :
    (placeHeader h s).stream = ⟨h.bytes ++ s.stream.bytes.drop 34, s.stream.pos, s.stream.script, s.stream.eof⟩ := rfl
@[simp] theorem placeHeader_trace (h : Header) (s : State) :
    (placeHeader h s).trace = s.trace := rfl
@[simp] theorem placeHeader_inputs (h : Header) (s : State) :
    (placeHeader h s).inputs = s.inputs := rfl
@[simp] theorem placeHeader_answer (h : Header) (s : State) :
    (placeHeader h s).answer = s.answer := rfl

@[simp] theorem hostRead_config (i : Nat) (s : State) :
    (hostRead i s).config = s.config := rfl
@[simp] theorem hostRead_phase (i : Nat) (s : State) :
    (hostRead i s).phase = s.phase := rfl
@[simp] theorem hostRead_row (i : Nat) (s : State) :
    (hostRead i s).row = s.row := rfl
@[simp] theorem hostRead_col (i : Nat) (s : State) :
    (hostRead i s).col = s.col := rfl
@[simp] theorem hostRead_sig (i : Nat) (s : State) :
    (hostRead i s).sig = s.sig := rfl
@[simp] theorem hostRead_dataOffset (i : Nat) (s : State) :
    (hostRead i s).dataOffset = s.dataOffset := rfl
@[simp] theorem hostRead_widthRaw (i : Nat) (s : State) :
    (hostRead i s).widthRaw = s.widthRaw := rfl
@[simp] theorem hostRead_heightRaw (i : Nat) (s : State) :
    (hostRead i s).heightRaw = s.heightRaw := rfl
@[simp] theorem hostRead_planes (i : Nat) (s : State) :
    (hostRead i s).planes = s.planes := rfl
@[simp] theorem hostRead_bitDepth (i : Nat) (s : State) :
    (hostRead i s).bitDepth = s.bitDepth := rfl
@[simp] theorem hostRead_compression (i : Nat) (s : State) :
    (hostRead i s).compression = s.compression := rfl
@[simp] theorem hostRead_height (i : Nat) (s : State) :
    (hostRead i s).height = s.height := rfl
@[simp] theorem hostRead_width (i : Nat) (s : State) :
    (hostRead i s).width = s.width := rfl
@[simp] theorem hostRead_rowStride (i : Nat) (s : State) :
    (hostRead i s).rowStride = s.rowStride := rfl
@[simp] theorem hostRead_clipH (i : Nat) (s : State) :
    (hostRead i s).clipH = s.clipH := rfl
@[simp] theorem hostRead_frameTotal (i : Nat) (s : State) :
    (hostRead i s).frameTotal = s.frameTotal := rfl
@[simp] theorem hostRead_pix (i : Nat) (s : State) :
    (hostRead i s).pix = s.pix := rfl
@[simp] theorem hostRead_cor (i : Nat) (s : State) :
    (hostRead i s).cor = s.cor := rfl
@[simp] theorem hostRead_out (i : Nat) (s : State) :
    (hostRead i s).out = s.out := rfl
@[simp] theorem hostRead_spos (i : Nat) (s : State) :
    (hostRead i s).spos = s.spos := rfl
@[simp] theorem hostRead_rowOrder (i : Nat) (s : State) :
    (hostRead i s).rowOrder = s.rowOrder := rfl
@[simp] theorem hostRead_cmdErr (i : Nat) (s : State) :
    (hostRead i s).cmdErr = s.cmdErr := rfl
@[simp] theorem hostRead_errCode (i : Nat) (s : State) :
    (hostRead i s).errCode = s.errCode := rfl
@[simp] theorem hostRead_errIo (i : Nat) (s : State) :
    (hostRead i s).errIo = s.errIo := rfl
@[simp] theorem hostRead_errValue (i : Nat) (s : State) :
    (hostRead i s).errValue = s.errValue := rfl
@[simp] theorem hostRead_errPos (i : Nat) (s : State) :
    (hostRead i s).errPos = s.errPos := rfl
@[simp] theorem hostRead_frameCount (i : Nat) (s : State) :
    (hostRead i s).frameCount = s.frameCount := rfl
@[simp] theorem hostRead_frame (i : Nat) (s : State) :
    (hostRead i s).frame = s.frame := rfl
@[simp] theorem hostRead_stream (i : Nat) (s : State) :
    (hostRead i s).stream = s.stream := rfl
@[simp] theorem hostRead_trace (i : Nat) (s : State) :
    (hostRead i s).trace = s.trace := rfl
@[simp] theorem hostRead_inputs (i : Nat) (s : State) :
    (hostRead i s).inputs = s.inputs := rfl
@[simp] theorem hostRead_answer (i : Nat) (s : State) :
    (hostRead i s).answer = .word (readReg s i) := rfl

@[simp] theorem replaceStream_config (b : List Byte) (s : State) :
    (replaceStream b s).config = s.config := rfl
@[simp] theorem replaceStream_phase (b : List Byte) (s : State) :
    (replaceStream b s).phase = s.phase := rfl
@[simp] theorem replaceStream_row (b : List Byte) (s : State) :
    (replaceStream b s).row = s.row := rfl
@[simp] theorem replaceStream_col (b : List Byte) (s : State) :
    (replaceStream b s).col = s.col := rfl
@[simp] theorem replaceStream_sig (b : List Byte) (s : State) :
    (replaceStream b s).sig = s.sig := rfl
@[simp] theorem replaceStream_dataOffset (b : List Byte) (s : State) :
    (replaceStream b s).dataOffset = s.dataOffset := rfl
@[simp] theorem replaceStream_widthRaw (b : List Byte) (s : State) :
    (replaceStream b s).widthRaw = s.widthRaw := rfl
@[simp] theorem replaceStream_heightRaw (b : List Byte) (s : State) :
    (replaceStream b s).heightRaw = s.heightRaw := rfl
@[simp] theorem replaceStream_planes (b : List Byte) (s : State) :
    (replaceStream b s).planes = s.planes := rfl
@[simp] theorem replaceStream_bitDepth (b : List Byte) (s : State) :
    (replaceStream b s).bitDepth = s.bitDepth := rfl
@[simp] theorem replaceStream_compression (b : List Byte) (s : State) :
    (replaceStream b s).compression = s.compression := rfl
@[simp] theorem replaceStream_height (b : List Byte) (s : State) :
    (replaceStream b s).height = s.height := rfl
@[simp] theorem replaceStream_width (b : List Byte) (s : State) :
    (replaceStream b s).width = s.width := rfl
@[simp] theorem replaceStream_rowStride (b : List Byte) (s : State) :
    (replaceStream b s).rowStride = s.rowStride := rfl
@[simp] theorem replaceStream_clipH (b : List Byte) (s : State) :
    (replaceStream b s).clipH = s.clipH := rfl
@[simp] theorem replaceStream_frameTotal (b : List Byte) (s : State) :
    (replaceStream b s).frameTotal = s.frameTotal := rfl
@[simp] theorem replaceStream_pix (b : List Byte) (s : State) :
    (replaceStream b s).pix = s.pix := rfl
@[simp] theorem replaceStream_cor (b : List Byte) (s : State) :
    (replaceStream b s).cor = s.cor := rfl
@[simp] theorem replaceStream_out (b : List Byte) (s : State) :
    (replaceStream b s).out = s.out := rfl
@[simp] theorem replaceStream_spos (b : List Byte) (s : State) :
    (replaceStream b s).spos = s.spos := rfl
@[simp] theorem replaceStream_rowOrder (b : List Byte) (s : State) :
    (replaceStream b s).rowOrder = s.rowOrder := rfl
@[simp] theorem replaceStream_cmdErr (b : List Byte) (s : State) :
    (replaceStream b s).cmdErr = s.cmdErr := rfl
@[simp] theorem replaceStream_errCode (b : List Byte) (s : State) :
    (replaceStream b s).errCode = s.errCode := rfl
@[simp] theorem replaceStream_errIo (b : List Byte) (s : State) :
    (replaceStream b s).errIo = s.errIo := rfl
@[simp] theorem replaceStream_errValue (b : List Byte) (s : State) :
    (replaceStream b s).errValue = s.errValue := rfl
@[simp] theorem replaceStream_errPos (b : List Byte) (s : State) :
    (replaceStream b s).errPos = s.errPos := rfl
@[simp] theorem replaceStream_frameCount (b : List Byte) (s : State) :
    (replaceStream b s).frameCount = s.frameCount := rfl
@[simp] theorem replaceStream_frame (b : List Byte) (s : State) :
    (replaceStream b s).frame = s.frame := rfl
@[simp] theorem replaceStream_stream (b : List Byte) (s : State) :
    (replaceStream b s).stream = ⟨b, s.stream.pos, s.stream.script, s.stream.eof⟩ := rfl
@[simp] theorem replaceStream_trace (b : List Byte) (s : State) :
    (replaceStream b s).trace = s.trace := rfl
@[simp] theorem replaceStream_inputs (b : List Byte) (s : State) :
    (replaceStream b s).inputs = s.inputs := rfl
@[simp] theorem replaceStream_answer (b : List Byte) (s : State) :
    (replaceStream b s).answer = s.answer := rfl

@[simp] theorem resetWith_phase (c : Config) (a : StreamAgent) : (State.resetWith c a).phase = .idle := rfl
@[simp] theorem resetWith_config (c : Config) (a : StreamAgent) : (State.resetWith c a).config = c := rfl
@[simp] theorem resetWith_frame (c : Config) (a : StreamAgent) : (State.resetWith c a).frame = [] := rfl

end Sys2Proof.Machine
end

