-- ==== Sys2Proof/Laws/Ops.lean ====
section
/-! SUPPORT. What each shared operation can do, said once: stream requests, checks, FRAME accesses, traps. The meanings'
proofs cite these and do not unfold the operations. -/

namespace Sys2Proof.Machine

/-! ## Traps -/

theorem trapEntry_eq_trapped (c : Cause) (v io : Word) (p : Pos) (s : State) :
    trapEntry c v io p s = s.trapped c.code v io p := rfl

theorem ioCause_code (c : Config) (code : Word) : (ioCause c code).code = ioErrCode c code := by
  unfold ioCause ioErrCode
  split <;> rfl

theorem raiseIo_eq (code : Word) (p : Pos) (s : State) :
    raiseIo code p s = .next (s.trapped (ioErrCode s.config code) 0 code p) := by
  rw [raiseIo, trapEntry_eq_trapped, ioCause_code]

theorem raiseCheck_eq (c : Cause) (v : Word) (s : State) :
    raiseCheck c v s = .next (s.trapped c.code v 0 s.spos) := rfl

theorem checkThen_pass (c : Cause) (v : Word) (p : Phase) (s : State) :
    checkThen true c v p s = .next { s with phase := p } := rfl

theorem checkThen_fail (c : Cause) (v : Word) (p : Phase) (s : State) :
    checkThen false c v p s = .next (s.trapped c.code v 0 s.spos) := rfl

/-- The end-of-file code is never the busy code (R43). -/
theorem eofCode_ne_busy (busy : Word) (a : StreamAgent) : eofCode busy a ≠ busy := by
  unfold eofCode
  split
  · rename_i h
    rw [h]
    intro h
    simp at h
  · rename_i h
    exact h

theorem eofCode_script (busy : Word) (a : StreamAgent) (r : List (Option ErrAnswer)) :
    eofCode busy { a with script := r } = eofCode busy a := rfl

/-! ## Requests -/

theorem State.requestPasses_or_errs (s : State) : s.requestPasses ∨ ∃ e, s.requestErrs e := by
  unfold State.requestPasses State.requestErrs
  cases s.stream.script.head?.join with
  | none => exact .inl rfl
  | some e => exact .inr ⟨e, rfl⟩

theorem script_passes {l : List (Option ErrAnswer)} (h : l.head?.join = none) : l = [] ∨ ∃ r, l = none :: r := by
  cases l with
  | nil => exact .inl rfl
  | cons x r =>
    cases x with
    | none => exact .inr ⟨r, rfl⟩
    | some e => simp at h

theorem script_errs {l : List (Option ErrAnswer)} {e : ErrAnswer} (h : l.head?.join = some e) : ∃ r, l = some e :: r := by
  cases l with
  | nil => simp at h
  | cons x r =>
    cases x with
    | none => simp at h
    | some e' => exact ⟨r, by simpa using h⟩

theorem seekThen_passes {s : State} (p : Pos) (k : State → Outcome) (h : s.requestPasses) :
    seekThen p k s = k { s.afterRequest (.seek p) p with spos := p } := by
  rcases script_passes h with hs | ⟨r, hs⟩ <;> simp [seekThen, StreamAgent.seek, State.afterRequest, hs]

theorem seekThen_errs {s : State} {e : ErrAnswer} (p : Pos) (k : State → Outcome) (h : s.requestErrs e) :
    seekThen p k s = .next ((s.afterRequest (.seek p) e.pos).trapped (ioErrCode s.config e.code) 0 e.code p) := by
  obtain ⟨r, hs⟩ := script_errs h
  simp [seekThen, StreamAgent.seek, State.afterRequest, hs, raiseIo_eq]

theorem readThen_serves {s : State} (n : Nat) (k : List Byte → State → Outcome) (h : s.requestPasses)
    (hl : ¬s.shortOf n) : readThen n k s = k (slice s.stream.pos.toNat n s.stream.bytes) (s.served n) := by
  have hl : s.stream.pos.toNat + n ≤ s.stream.bytes.length := Nat.le_of_not_lt hl
  rcases script_passes h with hs | ⟨r, hs⟩ <;>
    simp [readThen, StreamAgent.read, StreamAgent.serve, State.served, State.afterRequest, hs, hl]

theorem readThen_short {s : State} (n : Nat) (k : List Byte → State → Outcome) (h : s.requestPasses) (hl : s.shortOf n) :
    readThen n k s = .next ((s.afterRequest (.read n s.spos) s.stream.eof.pos).trapped 0x11 0
      (eofCode s.config.busyCode s.stream) s.spos) := by
  have hl : ¬s.stream.pos.toNat + n ≤ s.stream.bytes.length := Nat.not_le_of_lt hl
  have hc := eofCode_ne_busy s.config.busyCode s.stream
  rcases script_passes h with hs | ⟨r, hs⟩ <;>
    simp [readThen, StreamAgent.read, StreamAgent.serve, State.afterRequest, hs, hl, raiseIo_eq, ioErrCode,
      eofCode_script, hc]

theorem readThen_errs {s : State} {e : ErrAnswer} (n : Nat) (k : List Byte → State → Outcome) (h : s.requestErrs e) :
    readThen n k s = .next ((s.afterRequest (.read n s.spos) e.pos).trapped (ioErrCode s.config e.code) 0 e.code s.spos) := by
  obtain ⟨r, hs⟩ := script_errs h
  simp [readThen, StreamAgent.read, State.afterRequest, hs, raiseIo_eq]

/-- Everything a seek can do: it traps, or it goes on from the target. -/
theorem seekThen_cases {s : State} (p : Pos) (k : State → Outcome) :
    (∃ e, s.requestErrs e ∧
      seekThen p k s = .next ((s.afterRequest (.seek p) e.pos).trapped (ioErrCode s.config e.code) 0 e.code p)) ∨
    (s.requestPasses ∧ seekThen p k s = k { s.afterRequest (.seek p) p with spos := p }) := by
  rcases s.requestPasses_or_errs with h | ⟨e, h⟩
  · exact .inr ⟨h, seekThen_passes p k h⟩
  · exact .inl ⟨e, h, seekThen_errs p k h⟩

/-- Everything a read can do: it traps with an I/O code, or it goes on with exactly `n` bytes. -/
theorem readThen_cases {s : State} (n : Nat) (k : List Byte → State → Outcome) :
    (∃ (c : BitVec 8) (io : Word) (p : Pos), (c = 0x10 ∨ c = 0x11) ∧
      readThen n k s = .next ((s.afterRequest (.read n s.spos) p).trapped c 0 io s.spos)) ∨
    (s.requestPasses ∧ ¬s.shortOf n ∧ (slice s.stream.pos.toNat n s.stream.bytes).length = n ∧
      readThen n k s = k (slice s.stream.pos.toNat n s.stream.bytes) (s.served n)) := by
  rcases s.requestPasses_or_errs with h | ⟨e, h⟩
  · by_cases hl : s.shortOf n
    · exact .inl ⟨_, _, _, .inr rfl, readThen_short n k h hl⟩
    · refine .inr ⟨h, hl, ?_, readThen_serves n k h hl⟩
      have hl : s.stream.pos.toNat + n ≤ s.stream.bytes.length := Nat.le_of_not_lt hl
      simp only [slice, List.length_take, List.length_drop]
      omega
  · refine .inl ⟨_, _, _, ?_, readThen_errs n k h⟩
    unfold ioErrCode
    split <;> simp

theorem seekThen_next {p : Pos} {k : State → Outcome} {s t : State} (h : seekThen p k s = .next t) :
    (∃ e, s.requestErrs e ∧
      t = (s.afterRequest (.seek p) e.pos).trapped (ioErrCode s.config e.code) 0 e.code p) ∨
    (s.requestPasses ∧ k { s.afterRequest (.seek p) p with spos := p } = .next t) := by
  rcases seekThen_cases (s := s) p k with ⟨e, he, hx⟩ | ⟨hp, hx⟩
  · rw [hx] at h
    cases h
    exact .inl ⟨e, he, rfl⟩
  · rw [hx] at h
    exact .inr ⟨hp, h⟩

theorem readThen_answers {n : Nat} {k : List Byte → State → Outcome} {s t : State} (h : readThen n k s = .next t) :
    (∃ (c : BitVec 8) (io : Word) (p : Pos), (c = 0x10 ∨ c = 0x11) ∧
      t = (s.afterRequest (.read n s.spos) p).trapped c 0 io s.spos) ∨
    (s.requestPasses ∧ ¬s.shortOf n ∧ (slice s.stream.pos.toNat n s.stream.bytes).length = n ∧
      k (slice s.stream.pos.toNat n s.stream.bytes) (s.served n) = .next t) := by
  rcases readThen_cases (s := s) n k with ⟨c, io, p, hc, hx⟩ | ⟨hp, hs, hl, hx⟩
  · rw [hx] at h
    cases h
    exact .inl ⟨c, io, p, hc, rfl⟩
  · rw [hx] at h
    exact .inr ⟨hp, hs, hl, h⟩

theorem checkThen_next {ok : Bool} {c : Cause} {v : Word} {p : Phase} {s t : State}
    (h : checkThen ok c v p s = .next t) :
    (ok = true ∧ t = { s with phase := p }) ∨ (ok = false ∧ t = s.trapped c.code v 0 s.spos) := by
  cases ok
  · rw [checkThen_fail] at h
    cases h
    exact .inr ⟨rfl, rfl⟩
  · rw [checkThen_pass] at h
    cases h
    exact .inl ⟨rfl, rfl⟩

/-- Everything a sequence of operations can do. -/
theorem andThen_next {o : Outcome} {p : Phase} {k : State → Outcome} {t : State} (h : andThen o p k = .next t) :
    ∃ s, o = .next s ∧ ((s.phase = p ∧ k s = .next t) ∨ (s.phase ≠ p ∧ t = s)) := by
  cases o with
  | next s =>
    simp only [andThen] at h
    split at h
    · exact ⟨s, rfl, .inl ⟨‹_›, h⟩⟩
    · rename_i hp
      cases h
      exact ⟨_, rfl, .inr ⟨hp, rfl⟩⟩
  | fault r => cases h
  | refused r => cases h

theorem andThen_of {o : Outcome} {s : State} {p : Phase} {k : State → Outcome} (h : o = .next s) (hp : s.phase = p) :
    andThen o p k = k s := by
  subst h
  simp [andThen, hp]

theorem andThen_skip {o : Outcome} {s : State} {p : Phase} {k : State → Outcome} (h : o = .next s)
    (hp : s.phase ≠ p) : andThen o p k = .next s := by
  subst h
  simp [andThen, hp]

theorem placeHeader_self {h : Header} {s : State} (hb : s.stream.bytes.take 34 = h.bytes) : placeHeader h s = s := by
  unfold placeHeader
  rw [← hb, List.take_append_drop]

/-- The bytes a read returns where the stream goes on with `b`. -/
theorem State.nextBytes.slice_eq {s : State} {b : List Byte} (h : s.nextBytes b) :
    slice s.stream.pos.toNat b.length s.stream.bytes = b := by
  obtain ⟨r, hr⟩ := h
  rw [slice, ← hr]
  simp

theorem State.nextBytes.not_short {s : State} {b : List Byte} (h : s.nextBytes b) (hb : b ≠ []) : ¬s.shortOf b.length := by
  obtain ⟨r, hr⟩ := h
  have hlen := congrArg List.length hr
  have hpos : 0 < b.length := List.length_pos_iff.mpr hb
  simp only [List.length_append, List.length_drop] at hlen
  unfold State.shortOf
  omega

/-- A read of the bytes that come next. -/
theorem readThen_next {s : State} {b : List Byte} (k : List Byte → State → Outcome) (h : s.requestPasses)
    (hb : s.nextBytes b) (hne : b ≠ []) : readThen b.length k s = k b (s.served b.length) := by
  rw [readThen_serves _ k h (hb.not_short hne), hb.slice_eq]

/-! ## FRAME accesses -/

theorem storeFrame_inRange {s : State} {a : Nat} {v : List Byte} (k : State → Outcome)
    (h : a + v.length ≤ frameBytes s.config) :
    storeFrame a v k s = k { s with frame := s.frame.writeBytes a v } := if_pos h

theorem storeFrame_cases {s : State} {a : Nat} {v : List Byte} {k : State → Outcome} {t : State}
    (h : storeFrame a v k s = .next t) :
    a + v.length ≤ frameBytes s.config ∧ k { s with frame := s.frame.writeBytes a v } = .next t := by
  unfold storeFrame at h
  split at h
  · exact ⟨‹_›, h⟩
  · exact absurd h (by simp)

theorem loadFrame_cases {s : State} {a n : Nat} {k : List Byte → State → Outcome} {t : State}
    (h : loadFrame a n k s = .next t) :
    ∃ v, s.frame.readBytes a n = some v ∧ k v s = .next t := by
  unfold loadFrame at h
  split at h
  · split at h
    · exact ⟨_, ‹_›, h⟩
    · exact absurd h (by simp)
  · exact absurd h (by simp)

/-- A filled range inside `FRAME` reads whole. -/
theorem loadFrame_filled {s : State} {a n : Nat} (k : List Byte → State → Outcome) (hr : a + n ≤ frameBytes s.config)
    (hf : ∀ i, i < n → ∃ b, s.frame.read (a + i) = some b) :
    ∃ v : List Byte, v.length = n ∧ (∀ i, i < n → s.frame.read (a + i) = v[i]?) ∧ loadFrame a n k s = k v s := by
  obtain ⟨v, hl, hv, hs⟩ := Memory.readBytes_of_filled hf
  exact ⟨v, hl, hv, by simp [loadFrame, hr, hs]⟩

/-! ## Fields under the request updates -/

@[simp] theorem afterRequest_config (r : Request) (p : Pos) (s : State) : (s.afterRequest r p).config = s.config := rfl
@[simp] theorem afterRequest_frame (r : Request) (p : Pos) (s : State) : (s.afterRequest r p).frame = s.frame := rfl
@[simp] theorem afterRequest_phase (r : Request) (p : Pos) (s : State) : (s.afterRequest r p).phase = s.phase := rfl
@[simp] theorem afterRequest_inputs (r : Request) (p : Pos) (s : State) : (s.afterRequest r p).inputs = s.inputs := rfl
@[simp] theorem afterRequest_cmdErr (r : Request) (p : Pos) (s : State) : (s.afterRequest r p).cmdErr = s.cmdErr := rfl
@[simp] theorem served_config (n : Nat) (s : State) : (s.served n).config = s.config := rfl
@[simp] theorem served_frame (n : Nat) (s : State) : (s.served n).frame = s.frame := rfl
@[simp] theorem served_spos (n : Nat) (s : State) : (s.served n).spos = s.spos + BitVec.ofNat 64 n := rfl
@[simp] theorem served_cmdErr (n : Nat) (s : State) : (s.served n).cmdErr = s.cmdErr := rfl
@[simp] theorem served_inputs (n : Nat) (s : State) : (s.served n).inputs = s.inputs := rfl
@[simp] theorem trapped_config (c : BitVec 8) (v io : Word) (p : Pos) (s : State) : (s.trapped c v io p).config = s.config := rfl
@[simp] theorem trapped_frame (c : BitVec 8) (v io : Word) (p : Pos) (s : State) : (s.trapped c v io p).frame = s.frame := rfl
@[simp] theorem trapped_phase (c : BitVec 8) (v io : Word) (p : Pos) (s : State) : (s.trapped c v io p).phase = .error := rfl
@[simp] theorem trapped_cmdErr (c : BitVec 8) (v io : Word) (p : Pos) (s : State) : (s.trapped c v io p).cmdErr = s.cmdErr := rfl
@[simp] theorem trapped_inputs (c : BitVec 8) (v io : Word) (p : Pos) (s : State) : (s.trapped c v io p).inputs = s.inputs := rfl

end Sys2Proof.Machine
end

