-- ==== Sys2Proof/Laws/PerInstr.lean ====
section
/-! SUPPORT. Facts made once per instruction: `DecodeEncode`, the decoder reads back the encoding of a well-formed
instruction (R61, R70 to R72). -/

namespace Sys2Proof.Laws.DecodeEncode

/-- The decoder reads back the encoding of `i`. -/
def Statement (i : Instr) : Prop := i.wf = true → decode (encode i) = .ok i

theorem start : Statement .start := fun _ => rfl

theorem frd (f : Nat) : Statement (.frd f) := by
  intro h
  have hf : f < 2 ^ 24 := by simpa [Instr.wf] using h
  have ho : commandOp (commandWord 0x02 f) = 0x02 := BitVec.extractLsb'_append_eq_right
  have ha : (commandArg (commandWord 0x02 f)).toNat = f := by
    have : commandArg (commandWord 0x02 f) = BitVec.ofNat 24 f := BitVec.extractLsb'_append_eq_left
    rw [this, BitVec.toNat_ofNat, Nat.mod_eq_of_lt hf]
  show decodeCommand _ = _
  rw [decodeCommand, ho, ha]
  rfl

theorem hseek : Statement .hseek := fun _ => rfl
theorem rdsig : Statement .rdsig := fun _ => rfl
theorem skipa : Statement .skipa := fun _ => rfl
theorem rdoff : Statement .rdoff := fun _ => rfl
theorem skipb : Statement .skipb := fun _ => rfl
theorem rdwid : Statement .rdwid := fun _ => rfl
theorem rdhgt : Statement .rdhgt := fun _ => rfl
theorem rdpln : Statement .rdpln := fun _ => rfl
theorem rdbpp : Statement .rdbpp := fun _ => rfl
theorem rdcmp : Statement .rdcmp := fun _ => rfl
theorem roword : Statement .roword := fun _ => rfl
theorem stride : Statement .stride := fun _ => rfl
theorem clip : Statement .clip := fun _ => rfl
theorem fclear : Statement .fclear := fun _ => rfl
theorem rowseek : Statement .rowseek := fun _ => rfl
theorem pixrd : Statement .pixrd := fun _ => rfl
theorem gamma : Statement .gamma := fun _ => rfl
theorem reord : Statement .reord := fun _ => rfl
theorem pixst : Statement .pixst := fun _ => rfl
theorem rowend : Statement .rowend := fun _ => rfl
theorem blank : Statement .blank := fun _ => rfl
theorem finish : Statement .finish := fun _ => rfl

theorem bmp24 (h : Header) : Statement (.bmp24 h) := by
  intro hw
  exact (decodeHeader_ok_iff h.bytes _).mpr
    ⟨h.bytes_length, by rw [h.ofBytes_bytes]; exact hw, by rw [h.ofBytes_bytes]⟩

end Sys2Proof.Laws.DecodeEncode
end

