-- ==== Sys2Proof/Laws/Step.lean ====
section
/-! SUPPORT. What a step and a run of steps are made of, and what every sequencer operation leaves alone. -/

namespace Sys2Proof.Machine

theorem isBusy_iff (p : Phase) : isBusy p = true ↔ p ≠ .idle ∧ p ≠ .done ∧ p ≠ .error := by
  cases p <;> decide

theorem step_legal {s : State} (h : s.config.legal = true) : step s = nextEvent s := if_pos h

theorem step_next {s t : State} (h : step s = .next t) : s.config.legal = true ∧ nextEvent s = .next t := by
  unfold step at h
  split at h
  · exact ⟨‹_›, h⟩
  · cases h

theorem sequencerStep_rest {s : State} (h : isBusy s.phase = false) : sequencerStep s = .next s := by
  unfold sequencerStep
  rw [decode_phase_code]
  generalize hp : s.phase = p at *
  cases p <;> first | rfl | exact absurd h (by decide)

/-- With no host step due, a step is the operation `PHASE` names. -/
theorem step_operation {s : State} {i : Instr} (hl : s.config.legal = true) (hi : s.inputs = [])
    (ho : s.phase.operation = some i) : step s = exec i s := by
  rw [step_legal hl]
  simp only [nextEvent, hi, sequencerStep, decode_phase_code, ho]

theorem step_resting {s : State} (hl : s.config.legal = true) (hi : s.inputs = []) (hp : isBusy s.phase = false) :
    step s = .next s := by
  rw [step_legal hl]
  simp only [nextEvent, hi, sequencerStep_rest hp]

/-! ## Runs -/

theorem run_next {n : Nat} {s t : State} (h : step s = .next t) :
    Host.Core.run Sys2Proof.core (n + 1) s = Host.Core.run Sys2Proof.core n t := by
  have h : Sys2Proof.core.step s = .next t := h
  simp only [Host.Core.run, h]

theorem run_fault {n : Nat} {s : State} {r : Fault} (h : step s = .fault r) :
    Host.Core.run Sys2Proof.core (n + 1) s = .fault r := by
  have h : Sys2Proof.core.step s = .fault r := h
  simp only [Host.Core.run, h]

theorem run_refused {n : Nat} {s : State} {r : Refusal} (h : step s = .refused r) :
    Host.Core.run Sys2Proof.core (n + 1) s = .refused r := by
  have h : Sys2Proof.core.step s = .refused r := h
  simp only [Host.Core.run, h]

theorem run_one {s t : State} (h : step s = .next t) : Host.Core.run Sys2Proof.core 1 s = .next t := by
  rw [run_next h]
  rfl

/-- A run goes on from where a shorter one stands. -/
theorem run_add {m n : Nat} {s t : State} (h : Host.Core.run Sys2Proof.core m s = .next t) :
    Host.Core.run Sys2Proof.core (m + n) s = Host.Core.run Sys2Proof.core n t := by
  induction m generalizing s with
  | zero =>
    cases h
    rw [Nat.zero_add]
  | succ m ih =>
    rw [Nat.succ_add]
    cases hs : step s with
    | next u =>
      rw [run_next hs] at h ⊢
      exact ih h
    | fault r =>
      rw [run_fault hs] at h
      cases h
    | refused r =>
      rw [run_refused hs] at h
      cases h

/-! ## What every operation leaves alone -/

/-- The configuration, the host's inputs and its side, and `CMDERR`. -/
structure Kept (s t : State) : Prop where
  config : t.config = s.config
  inputs : t.inputs = s.inputs
  cmdErr : t.cmdErr = s.cmdErr
  answer : t.answer = s.answer

theorem Kept.same (s : State) : Kept s s := ⟨rfl, rfl, rfl, rfl⟩

/-- The later part first: elaboration then knows the state between. -/
theorem Kept.after {s t u : State} (g : Kept t u) (h : Kept s t) : Kept s u :=
  ⟨g.config.trans h.config, g.inputs.trans h.inputs, g.cmdErr.trans h.cmdErr, g.answer.trans h.answer⟩

theorem seekThen_kept {p : Pos} {k : State → Outcome} {s t : State} (hk : ∀ s t, k s = .next t → Kept s t)
    (h : seekThen p k s = .next t) : Kept s t := by
  rcases seekThen_next h with ⟨e, he, rfl⟩ | ⟨_, h⟩
  · exact ⟨rfl, rfl, rfl, rfl⟩
  · exact (hk _ _ h).after ⟨rfl, rfl, rfl, rfl⟩

theorem readThen_kept {n : Nat} {k : List Byte → State → Outcome} {s t : State}
    (hk : ∀ b s t, k b s = .next t → Kept s t) (h : readThen n k s = .next t) : Kept s t := by
  rcases readThen_answers h with ⟨c, io, p, _, rfl⟩ | ⟨_, _, _, h⟩
  · exact ⟨rfl, rfl, rfl, rfl⟩
  · exact (hk _ _ _ h).after ⟨rfl, rfl, rfl, rfl⟩

theorem storeFrame_kept {a : Nat} {v : List Byte} {k : State → Outcome} {s t : State}
    (hk : ∀ s t, k s = .next t → Kept s t) (h : storeFrame a v k s = .next t) : Kept s t :=
  (hk _ _ (storeFrame_cases h).2).after ⟨rfl, rfl, rfl, rfl⟩

theorem checkThen_kept {ok : Bool} {c : Cause} {v : Word} {p : Phase} {s t : State}
    (h : checkThen ok c v p s = .next t) : Kept s t := by
  rcases checkThen_next h with ⟨_, rfl⟩ | ⟨_, rfl⟩ <;> exact ⟨rfl, rfl, rfl, rfl⟩

theorem goto_kept {p : Phase} {s t : State} (h : goto p s = .next t) : Kept s t := by
  cases h
  exact ⟨rfl, rfl, rfl, rfl⟩

theorem raiseCheck_kept {c : Cause} {v : Word} {s t : State} (h : raiseCheck c v s = .next t) : Kept s t := by
  cases h
  exact ⟨rfl, rfl, rfl, rfl⟩

end Sys2Proof.Machine
end

