-- ==== Sys2Proof/Tests/Slice0.lean ====
section
/-! SUPPORT. The model's own tests: the well-formedness smoke tests, words written out from spec/30_encoding.md, one step of
each instruction against spec/95_test_vectors.md, and a witness for the hypotheses of every obligation. They are elaborated
one after another: together their kernel checks would hold too many threads. -/

open Sys2Proof Sys2Proof.Machine

set_option Elab.async false

namespace Sys2Proof.Tests

/-! ## Helpers -/

/-- The 34 header bytes of program P1 (spec/95_test_vectors.md section 2.2). -/
def p1Header : List Byte :=
  [0x42, 0x4D, 0x46, 0x00, 0x00, 0x00, 0x00, 0x00, 0x00, 0x00, 0x36, 0x00, 0x00, 0x00, 0x28, 0x00, 0x00] ++
  [0x00, 0x02, 0x00, 0x00, 0x00, 0x02, 0x00, 0x00, 0x00, 0x01, 0x00, 0x18, 0x00, 0x00, 0x00, 0x00, 0x00]

/-- The same as an instruction's operand. -/
def p1Fields : Header := ⟨0x4D42, 0x46, 0, 0x36, 0x28, 2, 2, 1, 24, 0⟩

/-- Positions 34 to 69 of program P1. -/
def p1Pixels : List Byte :=
  [0x10, 0x00, 0x00, 0x00, 0x13, 0x0B, 0x00, 0x00, 0x13, 0x0B, 0x00, 0x00, 0x00, 0x00, 0x00, 0x00, 0x00, 0x00] ++
  [0x00, 0x00, 0x90, 0x80, 0x70, 0xC0, 0xB0, 0xA0, 0xEE, 0xEE, 0x30, 0x20, 0x10, 0x60, 0x50, 0x40, 0xEE, 0xEE]

/-- Positions 34 to 69 of program P2. -/
def p2Pixels : List Byte :=
  [0x10, 0x00, 0x00, 0x00, 0x13, 0x0B, 0x00, 0x00, 0x13, 0x0B, 0x00, 0x00, 0x00, 0x00, 0x00, 0x00, 0x00, 0x00] ++
  [0x00, 0x00, 0x30, 0x20, 0x10, 0x60, 0x50, 0x40, 0xEE, 0xEE, 0x90, 0x80, 0x70, 0xC0, 0xB0, 0xA0, 0xEE, 0xEE]

/-- A stream agent on `b`, at position 0, with the oracle's choices `r`. -/
def agent (b : List Byte) (r : List (Option ErrAnswer)) : StreamAgent := ⟨b, 0, r, ⟨5, 0⟩⟩

/-- After reset, but in phase `p` on the stream `b`. -/
def at' (p : Phase) (b : List Byte) : State := { State.reset with phase := p, stream := agent b [] }

/-- The same with the oracle's choices `r`. -/
def atScript (p : Phase) (b : List Byte) (r : List (Option ErrAnswer)) : State := { at' p b with stream := agent b r }

/-- A register after an outcome; none where the machine stops. -/
def regAfter (o : Outcome) (i : Nat) : Option Word :=
  match o with
  | .next s => some (readReg s i)
  | _ => none

/-- Something of the state after an outcome. -/
def after {α : Type} (o : Outcome) (f : State → α) : Option α :=
  match o with
  | .next s => some (f s)
  | _ => none

/-- The `STATUS` after an outcome. -/
def statusAfter (o : Outcome) : Option Word := regAfter o 0x01

/-! ## Well-formedness -/

theorem test_wf_frd_argument : (Instr.frd (2 ^ 24)).wf = false ∧ (Instr.frd (2 ^ 24 - 1)).wf = true := by decide
theorem test_wf_bmp24_signature : (Instr.bmp24 { p1Fields with sig := 0x424D }).wf = false := by decide
theorem test_wf_bmp24_planes : (Instr.bmp24 { p1Fields with planes := 0 }).wf = false := by decide
theorem test_wf_bmp24_bitDepth : (Instr.bmp24 { p1Fields with bitDepth := 16 }).wf = false := by decide
theorem test_wf_bmp24_compression : (Instr.bmp24 { p1Fields with compression := 1 }).wf = false := by decide
theorem test_wf_bmp24_accepted : (Instr.bmp24 p1Fields).wf = true := by decide
theorem test_legal_stripLength : { Config.vectors with stripLength := 0 }.legal = false := by decide +kernel
theorem test_legal_order : { Config.vectors with order := ⟨.green, .green, .blue⟩ }.legal = false := by decide +kernel
theorem test_legal_order_ends : { Config.vectors with order := ⟨.red, .green, .red⟩ }.legal = false := by decide +kernel
theorem test_legal_order_tail : { Config.vectors with order := ⟨.red, .blue, .blue⟩ }.legal = false := by decide +kernel
theorem test_legal_maxFrames_low : { Config.vectors with maxFrames := 0 }.legal = false := by decide +kernel
theorem test_legal_maxFrames_high :
    { Config.vectors with maxFrames := 0x01000001 }.legal = false ∧ { Config.vectors with maxFrames := 0x01000000 }.legal = true := by
  decide +kernel

/-! ## Encodings, the words written out from R61, R70 to R72 -/

theorem test_decode_start : decodeTableWord 32 0b00000000000000000000000000000001 = some .start := by decide
theorem test_decode_frd : decodeTableWord 32 0b10000000000000000000000100000010 = some (.frd 0x800001) := by decide
theorem test_decode_hseek : decodeTableWord 8 0b00001 = some .hseek := by decide
theorem test_decode_rdsig : decodeTableWord 8 0b00010 = some .rdsig := by decide
theorem test_decode_skipa : decodeTableWord 8 0b00011 = some .skipa := by decide
theorem test_decode_rdoff : decodeTableWord 8 0b00100 = some .rdoff := by decide
theorem test_decode_skipb : decodeTableWord 8 0b00101 = some .skipb := by decide
theorem test_decode_rdwid : decodeTableWord 8 0b00110 = some .rdwid := by decide
theorem test_decode_rdhgt : decodeTableWord 8 0b00111 = some .rdhgt := by decide
theorem test_decode_rdpln : decodeTableWord 8 0b01000 = some .rdpln := by decide
theorem test_decode_rdbpp : decodeTableWord 8 0b01001 = some .rdbpp := by decide
theorem test_decode_rdcmp : decodeTableWord 8 0b01010 = some .rdcmp := by decide
theorem test_decode_roword : decodeTableWord 8 0b01011 = some .roword := by decide
theorem test_decode_stride : decodeTableWord 8 0b01100 = some .stride := by decide
theorem test_decode_clip : decodeTableWord 8 0b01101 = some .clip := by decide
theorem test_decode_fclear : decodeTableWord 8 0b01110 = some .fclear := by decide
theorem test_decode_rowseek : decodeTableWord 8 0b01111 = some .rowseek := by decide
theorem test_decode_pixrd : decodeTableWord 8 0b10000 = some .pixrd := by decide
theorem test_decode_gamma : decodeTableWord 8 0b10001 = some .gamma := by decide
theorem test_decode_reord : decodeTableWord 8 0b10010 = some .reord := by decide
theorem test_decode_pixst : decodeTableWord 8 0b10011 = some .pixst := by decide
theorem test_decode_rowend : decodeTableWord 8 0b10100 = some .rowend := by decide
theorem test_decode_blank : decodeTableWord 8 0b10101 = some .blank := by decide
theorem test_decode_finish : decodeTableWord 8 0b10110 = some .finish := by decide
theorem test_decode_bmp24 :
    decodeTableWord 272 0x00000000001800010000000200000002000000280000003600000000000000464D42 = some (.bmp24 p1Fields) := by
  decide +kernel

theorem test_decode_resting : decode (.phase 0b00000) = .error .restingPhase ∧ decode (.phase 0b11110) = .error .restingPhase ∧
    decode (.phase 0b11111) = .error .restingPhase := ⟨rfl, rfl, rfl⟩
theorem test_decode_reservedPhase : decode (.phase 0b10111) = .error .reservedPhase ∧
    decode (.phase 0b11101) = .error .reservedPhase := ⟨rfl, rfl⟩
theorem test_decode_reservedCommand : decode (.command 0x00000000) = .error .reservedCommand ∧
    decode (.command 0x00000003) = .error .reservedCommand ∧ decode (.command 0x00000101) = .error .reservedCommand :=
  ⟨rfl, rfl, rfl⟩
/-- The P5 headers (spec/95_test_vectors.md): XX, planes 0, bit depth 16, compression 1. -/
theorem test_decode_malformed :
    decode (.header (0x58 :: 0x58 :: p1Header.drop 2)) = .error .badSignature ∧
    decode (.header (p1Header.take 26 ++ [0x00, 0x00] ++ p1Header.drop 28)) = .error .badPlanes ∧
    decode (.header (p1Header.take 28 ++ [0x10, 0x00] ++ p1Header.drop 30)) = .error .badBitDepth ∧
    decode (.header (p1Header.take 30 ++ [0x01, 0x00, 0x00, 0x00])) = .error .badCompression := ⟨rfl, rfl, rfl, rfl⟩
theorem test_decode_headerLength : decode (.header (p1Header.take 33)) = .error .headerLength := rfl
/-- `H & MASK = MATCH` on the P1 header (spec/95_test_vectors.md section 2.2). -/
theorem test_header_pattern : headerWord p1Header &&& headerMask = headerMatch := by decide +kernel
theorem test_encode_bmp24 : encode (.bmp24 p1Fields) = .header p1Header := by decide +kernel

/-! ## A step runs the instruction placed for it -/

theorem test_place_start : statusAfter (step (State.reset.withFetchWord 32 0x00000001)) = some 0x00000101 := by decide +kernel
theorem test_place_hseek : statusAfter (step (State.reset.withFetchWord 8 0b00001)) = some 0x00000102 := by decide +kernel
theorem test_place_finish : statusAfter (step (State.reset.withFetchWord 8 0b10110)) = some 0x0000021E := by decide +kernel
theorem test_place_bmp24 :
    statusAfter (step (State.reset.withFetchWord 272
      0x00000000001800010000000200000002000000280000003600000000000000464D42)) = some 0x0000010B := by decide +kernel

/-! ## One step of each instruction (spec/95_test_vectors.md) -/

/-- Section 2.1. -/
theorem test_start_accepted : statusAfter (exec .start { at' .idle [] with cmdErr := true }) = some 0x00000101 := by
  decide +kernel
theorem test_start_refused : statusAfter (exec .start (at' .rdsig [])) = some 0x00001102 := by decide +kernel
theorem test_frd_refused : statusAfter (exec (.frd 0) State.reset) = some 0x00001000 := by decide +kernel

/-- A finished load of a 0-wide image, strip of 1, no loop: the only frame is the dark one (P9). -/
def doneState : State :=
  { State.reset with
    config := { Config.vectors with stripLength := 1 }
    phase := .done, rowOrder := .bottomUp
    sig := 0x4D42, planes := 1, bitDepth := 24
    frameTotal := 1, frameCount := 1
    frame := [(0, 0), (1, 0), (2, 0)] }

theorem test_frd_returns : after (exec (.frd 0) doneState) (fun s => s.answer) = some (.bytes [0, 0, 0]) := by decide +kernel

theorem test_hseek : statusAfter (exec .hseek (at' .hseek p1Header)) = some 0x00000102 := by decide +kernel
/-- P6e. -/
theorem test_hseek_busy :
    (statusAfter (exec .hseek (atScript .hseek [] [some ⟨28, 0⟩])) = some 0x0000041F) ∧
    (regAfter (exec .hseek (atScript .hseek [] [some ⟨28, 0⟩])) 0x02 = some 0x10) ∧
    (regAfter (exec .hseek (atScript .hseek [] [some ⟨28, 0⟩])) 0x03 = some 0x1C) := by decide +kernel
theorem test_rdsig : statusAfter (exec .rdsig (at' .rdsig [0x42, 0x4D])) = some 0x00000103 := by decide +kernel
/-- Section 2.2, bytes swapped. -/
theorem test_rdsig_swapped :
    regAfter (exec .rdsig (at' .rdsig [0x4D, 0x42])) 0x02 = some 0x01 ∧
    regAfter (exec .rdsig (at' .rdsig [0x4D, 0x42])) 0x04 = some 0x424D ∧
    regAfter (exec .rdsig (at' .rdsig [0x4D, 0x42])) 0x05 = some 2 := by decide +kernel
theorem test_skipa : regAfter (exec .skipa (at' .skipa [1, 2, 3, 4, 5, 6, 7, 8])) 0x20 = some 8 := by decide +kernel
/-- The end of the file, one byte early: `Err(5)` (P6c). -/
theorem test_skipa_short : regAfter (exec .skipa (at' .skipa [1, 2, 3, 4, 5, 6, 7])) 0x03 = some 5 := by decide +kernel
theorem test_rdoff : regAfter (exec .rdoff (at' .rdoff [0x36, 0x00, 0x00, 0x00])) 0x11 = some 54 := by decide +kernel
theorem test_skipb : regAfter (exec .skipb (at' .skipb [1, 2, 3, 4])) 0x20 = some 4 := by decide +kernel
theorem test_rdwid : regAfter (exec .rdwid (at' .rdwid [0xFF, 0xFF, 0xFF, 0x7F])) 0x12 = some 2147483647 := by decide +kernel
theorem test_rdhgt : regAfter (exec .rdhgt (at' .rdhgt [0xFE, 0xFF, 0xFF, 0xFF])) 0x13 = some 0xFFFFFFFE := by decide +kernel
theorem test_rdpln : statusAfter (exec .rdpln (at' .rdpln [0x01, 0x00])) = some 0x00000109 := by decide +kernel
theorem test_rdpln_256 : regAfter (exec .rdpln (at' .rdpln [0x00, 0x01])) 0x04 = some 256 := by decide +kernel
theorem test_rdbpp : statusAfter (exec .rdbpp (at' .rdbpp [0x18, 0x00])) = some 0x0000010A := by decide +kernel
theorem test_rdbpp_6144 : regAfter (exec .rdbpp (at' .rdbpp [0x00, 0x18])) 0x04 = some 6144 := by decide +kernel
theorem test_rdcmp : statusAfter (exec .rdcmp (at' .rdcmp [0, 0, 0, 0])) = some 0x0000010B := by decide +kernel
theorem test_rdcmp_high_byte : regAfter (exec .rdcmp (at' .rdcmp [0, 0, 0, 1])) 0x04 = some 16777216 := by decide +kernel
/-- Section 2.3. -/
theorem test_roword_minus_two :
    regAfter (exec .roword { at' .roword [] with heightRaw := 0xFFFFFFFE }) 0x18 = some 2 ∧
    statusAfter (exec .roword { at' .roword [] with heightRaw := 0xFFFFFFFE }) = some 0x0000010C := by decide +kernel
theorem test_roword_least :
    regAfter (exec .roword { at' .roword [] with heightRaw := 0x80000000 }) 0x18 = some 0x80000000 := by decide +kernel
theorem test_stride_padding : regAfter (exec .stride { at' .stride [] with widthRaw := 5 }) 0x19 = some 16 := by decide +kernel
theorem test_stride_greatest :
    regAfter (exec .stride { at' .stride [] with widthRaw := 0x7FFFFFFF }) 0x19 = some 0x80000000 ∧
    regAfter (exec .stride { at' .stride [] with widthRaw := 0x7FFFFFFF }) 0x1A = some 1 := by decide +kernel
/-- Section 2.3: 64 columns and the blank frame need 65 of 64 frames. -/
theorem test_clip_capacity :
    regAfter (exec .clip { at' .clip [] with width := 64, height := 1 }) 0x02 = some 0x21 ∧
    regAfter (exec .clip { at' .clip [] with width := 64, height := 1 }) 0x04 = some 65 := by decide +kernel
theorem test_clip_fits :
    regAfter (exec .clip { at' .clip [] with width := 63, height := 100 }) 0x1B = some 4 ∧
    regAfter (exec .clip { at' .clip [] with width := 63, height := 100 }) 0x1C = some 64 := by decide +kernel
theorem test_fclear :
    after (exec .fclear { at' .fclear [] with width := 1, frame := [(11, 7), (12, 9)] })
      (fun s => (s.frame.read 11, s.frame.read 12)) = some (some 0, some 9) := by decide +kernel
/-- Section 2.4. -/
theorem test_rowseek_bottomUp :
    regAfter (exec .rowseek { at' .rowseek [] with
      dataOffset := 54, height := 100, rowOrder := .bottomUp, width := 10, rowStride := 32, row := 29 }) 0x20 = some 2294 := by
  decide +kernel
theorem test_rowseek_topDown :
    regAfter (exec .rowseek { at' .rowseek [] with
      dataOffset := 54, height := 100, rowOrder := .topDown, width := 10, rowStride := 32, row := 29 }) 0x20 = some 982 := by
  decide +kernel
/-- P1: stored blue, green, red. -/
theorem test_pixrd : after (exec .pixrd (at' .pixrd [0x30, 0x20, 0x10])) (fun s => s.pix) = some ⟨0x30, 0x20, 0x10⟩ := by
  decide +kernel
/-- Section 2.5, `lutgen(2.7, 1.0)` at 200, 128, 50. -/
theorem test_gamma :
    after (exec .gamma { at' .gamma [] with
      config := { Config.vectors with lut := ((Config.identityLut.set 200 132).set 128 40).set 50 3 }, pix := ⟨200, 128, 50⟩ })
      (fun s => s.cor) = some ⟨132, 40, 3⟩ := by decide +kernel
/-- Section 2.5, `ORDER` GRB. -/
theorem test_reord : after (exec .reord { at' .reord [] with cor := ⟨0x11, 0x22, 0x33⟩ }) (fun s => s.out) =
    some ⟨0x22, 0x33, 0x11⟩ := by decide +kernel
/-- Section 2.5, `ORDER` RBG: not its own inverse. -/
theorem test_reord_rbg : after (exec .reord { at' .reord [] with
    config := { Config.vectors with order := ⟨.red, .blue, .green⟩ }, cor := ⟨0x11, 0x22, 0x33⟩ }) (fun s => s.out) =
    some ⟨0x33, 0x11, 0x22⟩ := by decide +kernel
/-- Section 2.5: L = 4, ROW = 1, COL = 1, addresses 18 to 20. -/
theorem test_pixst :
    after (exec .pixst { at' .pixst [] with row := 1, col := 1, width := 2, out := ⟨1, 2, 3⟩ }) (fun s => s.frame) =
      some [(18, 1), (19, 2), (20, 3)] := by decide +kernel
theorem test_pixst_row_over :
    statusAfter (exec .pixst { at' .pixst [] with row := 1, col := 1, width := 2 }) = some 0x00000114 := by decide +kernel
theorem test_rowend :
    statusAfter (exec .rowend { at' .rowend [] with row := 0, clipH := 2 }) = some 0x0000010F ∧
    statusAfter (exec .rowend { at' .rowend [] with row := 1, clipH := 2 }) = some 0x00000115 := by decide +kernel
/-- Section 2.6: W = 3, L = 2, addresses 18 to 23. -/
theorem test_blank :
    after (exec .blank { at' .blank [] with config := { Config.vectors with stripLength := 2 }, width := 3 }) (fun s => s.frame) =
      some [(18, 0), (19, 0), (20, 0), (21, 0), (22, 0), (23, 0)] := by decide +kernel
theorem test_blank_loop :
    after (exec .blank { at' .blank [] with config := { Config.vectors with loop := true }, width := 3 }) (fun s => s.frame) =
      some [] := by decide +kernel
theorem test_finish : regAfter (exec .finish { at' .finish [] with frameTotal := 4 }) 0x07 = some 4 := by decide +kernel
theorem test_bmp24 :
    regAfter (exec (.bmp24 p1Fields) (at' .hseek [])) 0x20 = some 34 ∧
    regAfter (exec (.bmp24 p1Fields) (at' .hseek [])) 0x11 = some 0x36 := by decide +kernel
/-- P5e: the earlier field wins. -/
theorem test_bmp24_priority :
    regAfter (exec (.bmp24 { p1Fields with sig := 0x5842, bitDepth := 16 }) (at' .hseek [])) 0x04 = some 0x5842 := by
  decide +kernel
/-- Section 2.5: `CFG_FLAGS` for GRB. -/
theorem test_cfg_flags : readReg State.reset 0x09 = 0x00000900 := by decide +kernel
theorem test_lut_window : readReg State.reset 0x7F = 0xFFFEFDFC := by decide +kernel

/-! ## Witnesses: concrete states and operands that meet the hypotheses of each obligation together -/

theorem witness_DecodeOfEncodeIsIdentity :
    (Instr.frd (2 ^ 24 - 1)).wf = true ∧ (Instr.bmp24 p1Fields).wf = true ∧ Instr.pixst.wf = true := by decide
theorem witness_EncodeOfDecodeIsIdentity :
    decode (.phase 0b10110) = .ok .finish ∧ decode (.command 0xFFFFFF02) = .ok (.frd 0xFFFFFF) ∧
    decode (.header p1Header) = .ok (.bmp24 p1Fields) := ⟨rfl, rfl, rfl⟩
theorem witness_HeaderPatternIsMaskAndMatch : p1Header.length = 34 := by decide
theorem witness_StartBeginsALoadOrIsRefused :
    (at' .idle []).phase = .idle ∧ (at' .error []).phase = .error ∧
    ¬((at' .done []).phase = .idle ∨ (at' .done []).phase = .error) ∧
    ¬((at' .pixst []).phase = .idle ∨ (at' .pixst []).phase = .error) := by decide +kernel

/-- The invariant of a finished load. -/
theorem witness_done : doneState.Inv := by
  constructor
  case blankZero => exact fun _ _ => by decide +kernel
  case imageFilled => exact fun _ a h => absurd h (Nat.not_lt_zero a)
  case unfilledZero => exact fun _ f _ _ h => absurd h (Nat.not_lt_zero f)
  case headerPlace => exact fun _ h => by cases h
  case shadow => exact fun h => absurd h (by decide)
  case rowInLoop => exact fun h => h.elim
  case colInLoop => exact fun h => h.elim
  case pixelRead => exact fun h => by rcases h with h | h | h <;> cases h
  all_goals first
    | decide +kernel
    | exact fun _ => by decide +kernel
    | exact fun h => absurd h (by decide)

theorem witness_FrdReturnsTheWholeFrameOrIsRefused :
    doneState.Inv ∧ (doneState.phase = .done ∧ 0 < doneState.frameCount.toNat) ∧
    ¬(doneState.phase = .done ∧ 1 < doneState.frameCount.toNat) := ⟨witness_done, by decide +kernel, by decide +kernel⟩
theorem witness_LastFrameIsDarkWithoutLoop :
    doneState.Inv ∧ doneState.phase = .done ∧ doneState.config.loop = false := ⟨witness_done, rfl, rfl⟩
theorem witness_ReservedCommandWordIsRefused :
    State.reset.config.legal = true ∧
    ((0x00000003 : Word).extractLsb' 0 8 ≠ 0x01#8 ∧ (0x00000003 : Word).extractLsb' 0 8 ≠ 0x02#8) ∧
    ((0x00000101 : Word).extractLsb' 0 8 = 0x01#8 ∧ (0x00000101 : Word).extractLsb' 8 24 ≠ 0#24) ∧
    ((0xFFFFFF01 : Word).extractLsb' 0 8 = 0x01#8 ∧ (0xFFFFFF01 : Word).extractLsb' 8 24 ≠ 0#24) := by decide +kernel
/-- The two ways `CMDERR` goes. -/
theorem witness_CommandErrorIsSticky :
    (∃ t, step { at' .done [] with cmdErr := true, inputs := [.reset] } = .next t ∧ t.cmdErr = false) ∧
    (∃ t, step { at' .error [] with cmdErr := true, inputs := [.write 0 0x00000001] } = .next t ∧ t.cmdErr = false) :=
  ⟨⟨_, rfl, rfl⟩, ⟨_, rfl, rfl⟩⟩
theorem witness_legal : State.reset.config.legal = true := by decide +kernel
theorem witness_ReservedRegistersReadZeroAndIgnoreWrites :
    State.reset.config.legal = true ∧ (∀ i ∈ [0x0D, 0x0F, 0x17, 0x22, 0x3F, 0x80],
      (0x0D ≤ i ∧ i ≤ 0x0F) ∨ i = 0x17 ∨ (0x22 ≤ i ∧ i ≤ 0x3F) ∨ 0x80 ≤ i) ∧ (1 : Nat) ≠ 0 := by decide +kernel
theorem witness_HostAccessLeavesRunningLoadAlone :
    (at' .hseek []).config.legal = true ∧ isBusy (at' .hseek []).phase = true ∧ isBusy (at' .finish []).phase = true ∧
    (∃ i w, Input.write 0 0x00000001 = .write i w) ∧ ∃ i, Input.read 1 = .read i :=
  ⟨by decide +kernel, by decide +kernel, by decide +kernel, ⟨_, _, rfl⟩, ⟨_, rfl⟩⟩

/-! ### Stream requests -/

theorem witness_requestErrs : (atScript .hseek [] [some ⟨28, 0⟩]).requestErrs ⟨28, 0⟩ := rfl
theorem witness_requestPasses :
    (atScript .hseek [] []).requestPasses ∧ (atScript .hseek [] [none, some ⟨28, 0⟩]).requestPasses := ⟨rfl, rfl⟩
/-- The end of the file, one byte early, for every read width. -/
theorem witness_shortOf :
    ∀ n ∈ [2, 3, 4, 8], (at' .rdsig (List.replicate (n - 1) 0)).requestPasses ∧
      (at' .rdsig (List.replicate (n - 1) 0)).shortOf n := by
  intro n hn
  refine ⟨rfl, ?_⟩
  simp only [State.shortOf, at', agent, List.length_replicate]
  simp only [List.mem_cons, List.not_mem_nil, or_false] at hn
  show n - 1 < 0 + n
  omega
theorem witness_SkipsDiscardTheirBytes :
    (at' .skipa (List.replicate 8 0)).requestPasses ∧ ¬(at' .skipa (List.replicate 8 0)).shortOf 8 ∧
    ¬(at' .skipb (List.replicate 4 0)).shortOf 4 := ⟨rfl, (show ¬8 < 8 by omega), (show ¬4 < 4 by omega)⟩
theorem witness_RdsigChecksTheSignature :
    (at' .rdsig [0x42, 0x4D, 0x58]).requestPasses ∧ (at' .rdsig [0x42, 0x4D, 0x58]).nextBytes [0x42, 0x4D] ∧
    (at' .rdsig [0x42, 0x58]).nextBytes [0x42, 0x58] ∧ ¬((0x42 : Byte) = 0x42 ∧ (0x58 : Byte) = 0x4D) :=
  ⟨rfl, ⟨_, rfl⟩, ⟨_, rfl⟩, by decide⟩
theorem witness_WordFieldsAreLatchedLittleEndian :
    (at' .rdoff [0x36, 0, 0, 0]).requestPasses ∧ (at' .rdoff [0x36, 0, 0, 0]).nextBytes [0x36, 0, 0, 0] := ⟨rfl, ⟨_, rfl⟩⟩
theorem witness_RdplnChecksThePlaneCount :
    (at' .rdpln [1, 0]).requestPasses ∧ (at' .rdpln [1, 0]).nextBytes [1, 0] ∧ ((0 : Byte) ++ (1 : Byte) : Half) = 1 ∧
    (at' .rdpln [0, 1]).nextBytes [0, 1] ∧ ((1 : Byte) ++ (0 : Byte) : Half) ≠ 1 :=
  ⟨rfl, ⟨_, rfl⟩, by decide, ⟨_, rfl⟩, by decide⟩
theorem witness_RdbppChecksTheBitDepth :
    (at' .rdbpp [24, 0]).requestPasses ∧ (at' .rdbpp [24, 0]).nextBytes [24, 0] ∧ ((0 : Byte) ++ (24 : Byte) : Half) = 24 ∧
    (at' .rdbpp [0, 24]).nextBytes [0, 24] ∧ ((24 : Byte) ++ (0 : Byte) : Half) ≠ 24 :=
  ⟨rfl, ⟨_, rfl⟩, by decide, ⟨_, rfl⟩, by decide⟩
theorem witness_RdcmpChecksTheCompression :
    (at' .rdcmp [0, 0, 0, 0]).requestPasses ∧ (at' .rdcmp [0, 0, 0, 0]).nextBytes [0, 0, 0, 0] ∧
    ((0 : Byte) ++ (0 : Byte) ++ (0 : Byte) ++ (0 : Byte) : Word) = 0 ∧
    (at' .rdcmp [0, 0, 0, 1]).nextBytes [0, 0, 0, 1] ∧ ((1 : Byte) ++ (0 : Byte) ++ (0 : Byte) ++ (0 : Byte) : Word) ≠ 0 :=
  ⟨rfl, ⟨_, rfl⟩, by decide, ⟨_, rfl⟩, by decide⟩
theorem witness_PixrdReadsBlueGreenRed :
    (at' .pixrd [0x30, 0x20, 0x10]).requestPasses ∧ (at' .pixrd [0x30, 0x20, 0x10]).nextBytes [0x30, 0x20, 0x10] :=
  ⟨rfl, ⟨_, rfl⟩⟩
theorem witness_AcceptedHeaderIsLatchedWhole :
    p1Fields.accepted = true ∧ (∀ e ∈ (at' .hseek []).stream.script.take 10, e = none) ∧
    ∀ e ∈ (atScript .hseek [] (List.replicate 10 none ++ [some ⟨28, 0⟩])).stream.script.take 10, e = none := by
  decide +kernel
theorem witness_MalformedHeaderTrapsOnItsFirstFailingField :
    { p1Fields with sig := 0x5858 }.accepted = false ∧ { p1Fields with planes := 2 }.accepted = false ∧
    { p1Fields with bitDepth := 16 }.accepted = false ∧ { p1Fields with compression := 1 }.accepted = false ∧
    ∀ e ∈ (at' .hseek []).stream.script.take 10, e = none := by decide +kernel
theorem witness_FirstErringHeaderRequestEndsTheLoad :
    p1Fields.accepted = true ∧ 9 < 10 ∧
    (∀ i, i < 9 → (atScript .hseek [] (List.replicate 9 none ++ [some ⟨28, 0⟩])).stream.script[i]?.join = none) ∧
    (atScript .hseek [] (List.replicate 9 none ++ [some ⟨28, 0⟩])).stream.script[9]?.join = some ⟨28, 0⟩ ∧
    (atScript .hseek [] [some ⟨5, 7⟩]).stream.script[0]?.join = some ⟨5, 7⟩ := by
  refine ⟨by decide +kernel, by decide, fun i hi => ?_, rfl, rfl⟩
  interval_cases i <;> rfl
theorem witness_Bmp24IsTheTenHeaderSteps :
    (at' .hseek p1Header).config.legal = true ∧ (at' .hseek p1Header).phase = .hseek ∧ (at' .hseek p1Header).inputs = [] ∧
    (at' .hseek p1Header).stream.bytes.take 34 = p1Fields.bytes := by decide +kernel
theorem witness_DiscardedHeaderFieldsHaveNoEffect :
    ({ p1Fields with fileSize := 1, reserved := 2, dibSize := 3 } : Header) =
      { p1Fields with fileSize := 1, reserved := 2, dibSize := 3 } ∧ ∃ t, exec (.bmp24 p1Fields) (at' .hseek []) = .next t :=
  ⟨rfl, ⟨_, rfl⟩⟩

/-! ### Geometry, rows, colour -/

theorem witness_RowordNormalisesTheHeight :
    (0x7FFFFFFF : Word).toInt > 0 ∧ (0x80000000 : Word).toInt < 0 ∧ (0 : Word).toInt = 0 := by decide
theorem witness_StrideChecksWidthAndPadsRows : (0x80000000 : Word).toInt < 0 ∧ 0 ≤ (0 : Word).toInt := by decide
theorem witness_ClipSizesTheFrameSequence :
    (0x7FFFFFFF : Word).toNat < 2 ^ 31 ∧
    after (exec .clip { at' .clip [] with width := 64 }) (fun t => decide (64 < t.frameTotal.toNat)) = some true ∧
    after (exec .clip { at' .clip [] with width := 63 }) (fun t => decide (t.frameTotal.toNat ≤ 64)) = some true := by
  decide +kernel
theorem witness_FclearZeroesTheImageFrames :
    { at' .fclear [] with width := 64 }.width.toNat ≤ (at' .fclear []).config.maxFrames.toNat := by decide +kernel
theorem witness_RowendChoosesNextRowOrEnd : (0xFFFFFFFE : Word).toNat + 1 < 2 ^ 32 := by decide
/-- The bounds of `PIXST`: the last row of the strip, the last frame. -/
theorem witness_PixstStoresThePixel :
    { at' .pixst [] with row := 3 }.row.toNat < (at' .pixst []).config.stripLength.toNat ∧
    { at' .pixst [] with col := 63 }.col.toNat < (at' .pixst []).config.maxFrames.toNat ∧
    { at' .pixst [] with col := 63 }.col.toNat + 1 < 2 ^ 32 := by decide +kernel
theorem witness_BlankAppendsTheDarkFrame :
    { Config.vectors with loop := true }.loop = true ∧ Config.vectors.loop = false ∧
    { at' .blank [] with width := 63 }.width.toNat + 1 ≤ (at' .blank []).config.maxFrames.toNat := by decide +kernel

/-- A 1-wide, 1-high image with its pixel row at position 54, strip of 1, in the row loop. -/
def rowState (p : Phase) (r : List (Option ErrAnswer)) : State :=
  { State.reset with
    config := { Config.vectors with stripLength := 1 }
    phase := p, rowOrder := .bottomUp
    sig := 0x4D42, planes := 1, bitDepth := 24, dataOffset := 54
    widthRaw := 1, heightRaw := 1, width := 1, height := 1, rowStride := 4, clipH := 1, frameTotal := 2
    spos := 54
    stream := { agent [] r with pos := 54 }
    frame := [(0, 0), (1, 0), (2, 0)] }

/-- The invariant does not see the stream's bytes nor the oracle. -/
theorem inv_anyStream {s : State} (h : s.Inv) (b : List Byte) (r : List (Option ErrAnswer)) :
    { s with stream := { s.stream with bytes := b, script := r } }.Inv := by
  obtain ⟨a0, a1, a2, a3, a4, a5, a6, a7, a8, a9, a10, a11, a12, a13, a14, a15, a16, a17, a18, a19, a20, a21, a22, a23, a24,
    a25, a26⟩ := h
  exact ⟨a0, a1, a2, a3, a4, a5, a6, a7, a8, a9, a10, a11, a12, a13, a14, a15, a16, a17, a18, a19, a20, a21, a22, a23, a24,
    a25, a26⟩

theorem filled_three {m : Memory} (h0 : ∃ b, m.read 0 = some b) (h1 : ∃ b, m.read 1 = some b) (h2 : ∃ b, m.read 2 = some b) :
    m.filled 3 := by
  intro a ha
  obtain rfl | rfl | rfl : a = 0 ∨ a = 1 ∨ a = 2 := by omega
  · exact h0
  · exact h1
  · exact h2

theorem witness_rowseek : (rowState .rowseek []).Inv := by
  constructor
  case imageFilled => exact fun _ => filled_three ⟨0, rfl⟩ ⟨0, rfl⟩ ⟨0, rfl⟩
  case unfilledZero => exact fun _ f p k _ h _ => absurd (show p + 1 < 1 from h) (by omega)
  case headerPlace => exact fun _ h => by cases h
  case blankZero => exact fun h => absurd h.1 (by decide)
  case colInLoop => exact fun h => h.elim
  case pixelRead => exact fun h => by rcases h with h | h | h <;> cases h
  case shadow => exact fun _ _ => rfl
  all_goals first
    | decide +kernel
    | exact fun _ => by decide +kernel
    | exact fun h => absurd h (by decide)

theorem witness_pixrd : (rowState .pixrd []).Inv := by
  constructor
  case imageFilled => exact fun _ => filled_three ⟨0, rfl⟩ ⟨0, rfl⟩ ⟨0, rfl⟩
  case unfilledZero => exact fun _ f p k _ h _ => absurd (show p + 1 < 1 from h) (by omega)
  case headerPlace => exact fun _ h => by cases h
  case blankZero => exact fun h => absurd h.1 (by decide)
  case pixelRead => exact fun h => by rcases h with h | h | h <;> cases h
  case shadow => exact fun _ _ => rfl
  all_goals first
    | decide +kernel
    | exact fun _ => by decide +kernel
    | exact fun h => absurd h (by decide)

theorem witness_RowseekSeeksTheSourceRow :
    (rowState .rowseek [some ⟨28, 0⟩]).Inv ∧ (rowState .rowseek [some ⟨28, 0⟩]).phase = .rowseek ∧
    (rowState .rowseek [some ⟨28, 0⟩]).requestErrs ⟨28, 0⟩ ∧
    (rowState .rowseek []).Inv ∧ (rowState .rowseek []).requestPasses :=
  ⟨inv_anyStream witness_rowseek _ _, rfl, rfl, witness_rowseek, rfl⟩
/-- The pixel's bytes in the stream, a request that errs, and the end of the file. -/
theorem witness_PixelPositionFollowsTheColumn :
    ({ rowState .pixrd [] with stream := { agent (zeros 57) [] with pos := 54 } } : State).Inv ∧
    ({ rowState .pixrd [] with stream := { agent (zeros 57) [] with pos := 54 } } : State).requestPasses ∧
    54 + 3 ≤ (zeros 57).length ∧
    (rowState .pixrd [some ⟨28, 0⟩]).Inv ∧ ¬(rowState .pixrd [some ⟨28, 0⟩]).requestPasses ∧
    (rowState .pixrd []).Inv ∧ (rowState .pixrd []).phase = .pixrd ∧ ¬54 + 3 ≤ (rowState .pixrd []).stream.bytes.length :=
  ⟨inv_anyStream witness_pixrd _ _, rfl, by decide, inv_anyStream witness_pixrd _ _, nofun, witness_pixrd, rfl, by decide⟩

/-! ### Colour tables -/

theorem floor_half (n : ℕ) : ⌊(n : ℝ) + 1 / 2⌋ = (n : ℤ) := by
  rw [Int.floor_eq_iff]
  constructor <;> push_cast <;> linarith

theorem identityLut_get (v : Fin 256) : Config.identityLut[v].toNat = v.val := by
  revert v
  decide +kernel

/-- `lutgen(1, 1)` is the identity table (spec/95_test_vectors.md section 4). -/
theorem witness_ColourTableProperties :
    (0 : ℝ) < 1 ∧ (0 : ℝ) ≤ 1 ∧ (1 : ℝ) ≤ 1 ∧ Config.IsLutgen 1 1 Config.identityLut := by
  refine ⟨one_pos, zero_le_one, le_rfl, fun v => ?_⟩
  have h : ((v.val : ℝ) / 255) ^ (1 : ℝ) * 1 * 255 + 1 / 2 = (v.val : ℝ) + 1 / 2 := by
    rw [Real.rpow_one]
    ring
  rw [h, floor_half, identityLut_get]
  have := v.isLt
  omega

/-- `lutgen(1, 0)` is all zero (spec/95_test_vectors.md section 4). -/
theorem witness_ColourTableProperties_dark :
    (0 : ℝ) < 1 ∧ (0 : ℝ) ≤ 0 ∧ (0 : ℝ) ≤ 1 ∧ Config.IsLutgen 1 0 (Vector.replicate 256 0) := by
  refine ⟨one_pos, le_rfl, zero_le_one, fun v => ?_⟩
  have h : ((v.val : ℝ) / 255) ^ (1 : ℝ) * 0 * 255 + 1 / 2 = ((0 : ℕ) : ℝ) + 1 / 2 := by simp
  rw [h, floor_half]
  simp

/-! ### Steps -/

theorem witness_StepRunsTheDecodedInstruction :
    State.reset.config.legal = true ∧ decode (.phase (at' .gamma []).phase.code) = .ok .gamma ∧ (at' .gamma []).inputs = [] ∧
    decode (.command 0x00000001) = .ok .start ∧
    decode (.header ((at' .hseek p1Header).stream.bytes.take 34)) = .ok (.bmp24 p1Fields) ∧ (at' .hseek p1Header).phase = .hseek :=
  ⟨witness_legal, rfl, rfl, rfl, rfl, rfl⟩
theorem witness_RestingStatesHaveNoSequencerStep :
    State.reset.config.legal = true ∧ (at' .idle []).phase = .idle ∧ (at' .done []).phase = .done ∧
    (at' .error []).phase = .error ∧ (at' .done []).inputs = [] := ⟨witness_legal, rfl, rfl, rfl, rfl⟩
theorem witness_SequencerFollowsTheTransitionTable :
    (∃ t, step (at' .roword []) = .next t) ∧ (at' .roword []).inputs = [] := ⟨⟨_, rfl⟩, rfl⟩
theorem witness_OnlyThreeOperationsWriteFrame :
    (∃ t, exec .roword (at' .roword []) = .next t) ∧ Instr.roword ≠ .fclear ∧ Instr.roword ≠ .pixst ∧ Instr.roword ≠ .blank :=
  ⟨⟨_, rfl⟩, by decide, by decide, by decide⟩
theorem witness_FinishedSequenceIsImmutable :
    (at' .done []).phase = .done ∧ { at' .done [] with inputs := [.write 0 0x00000001] }.inputs.head? ≠ some .reset ∧
    ∃ t, step { at' .done [] with inputs := [.write 0 0x00000001] } = .next t := ⟨rfl, by decide, ⟨_, rfl⟩⟩
theorem witness_ConfigurationNeverChanges : ∃ t, step State.reset = .next t := ⟨_, rfl⟩
theorem witness_IllegalConfigurationIsRefused :
    { State.reset with config := { Config.vectors with stripLength := 0 } }.config.legal = false := by decide +kernel
theorem witness_InvariantHoldsAtReset : Config.vectors.legal = true := by decide +kernel
theorem witness_StepKeepsTheInvariant : (rowState .pixrd []).Inv ∧ ∃ t, step (rowState .pixrd []) = .next t :=
  ⟨witness_pixrd, ⟨_, rfl⟩⟩
theorem witness_StepFromTheInvariantGoesOn : doneState.Inv ∧ (rowState .rowseek []).Inv := ⟨witness_done, witness_rowseek⟩

/-! ### Loads -/

theorem witness_hseek : (at' .hseek []).Inv := by
  constructor
  case headerPlace => exact fun n h => by cases h; rfl
  case pixelRead => exact fun h => by rcases h with h | h | h <;> cases h
  case shadow => exact fun _ h => absurd rfl h
  all_goals first
    | decide +kernel
    | exact fun _ => by decide +kernel
    | exact fun h => absurd h (by decide)
    | exact fun h => absurd h.1 (by decide)
    | exact fun h => h.elim

theorem witness_atLoadStart (b : List Byte) : (at' .hseek b).atLoadStart :=
  ⟨inv_anyStream witness_hseek b [], rfl, rfl, rfl, rfl⟩
theorem witness_EveryLoadEnds :
    (atScript .hseek p1Header [none, some ⟨28, 0⟩]).Inv ∧ (atScript .hseek p1Header [none, some ⟨28, 0⟩]).phase = .hseek ∧
    (atScript .hseek p1Header [none, some ⟨28, 0⟩]).inputs = [] := ⟨inv_anyStream witness_hseek _ _, rfl, rfl⟩

/-- One stream for each cause (P5, P7a, and 64 columns with the blank frame). -/
theorem witness_LoadEndsInItsFirstCause :
    34 ≤ p1Header.length ∧
    loadCause Config.vectors (0x58 :: 0x58 :: p1Header.drop 2) = some (.fmtSignature, 0x5858) ∧
    loadCause Config.vectors (p1Header.take 26 ++ [0x00, 0x00] ++ p1Header.drop 28) = some (.fmtPlanes, 0) ∧
    loadCause Config.vectors (p1Header.take 28 ++ [0x10, 0x00] ++ p1Header.drop 30) = some (.fmtBitDepth, 0x10) ∧
    loadCause Config.vectors (p1Header.take 30 ++ [0x01, 0x00, 0x00, 0x00]) = some (.fmtCompression, 1) ∧
    loadCause Config.vectors (p1Header.take 18 ++ [0xFF, 0xFF, 0xFF, 0xFF] ++ p1Header.drop 22) =
      some (.geoWidthNegative, 0xFFFFFFFF) ∧
    loadCause Config.vectors (p1Header.take 18 ++ [0x40, 0x00, 0x00, 0x00] ++ p1Header.drop 22) = some (.capFrames, 65) := by
  decide +kernel
/-- P1. -/
theorem witness_LoadBuildsTheFrameSequence :
    (at' .hseek (p1Header ++ p1Pixels)).atLoadStart ∧ streamHolds Config.vectors (p1Header ++ p1Pixels) ∧
    loadCause Config.vectors (p1Header ++ p1Pixels) = none :=
  ⟨witness_atLoadStart _, ⟨by decide +kernel, by decide +kernel⟩, by decide +kernel⟩
/-- Width 0, the pixel data's offset beyond the end of the file (R116 c). -/
theorem witness_streamHolds_noColumn :
    streamHolds Config.vectors (p1Header.take 10 ++ [0xFF, 0xFF, 0, 0, 40, 0, 0, 0, 0, 0, 0, 0] ++ p1Header.drop 22) ∧
    loadCause Config.vectors (p1Header.take 10 ++ [0xFF, 0xFF, 0, 0, 40, 0, 0, 0, 0, 0, 0, 0] ++ p1Header.drop 22) = none :=
  ⟨⟨by decide +kernel, by decide +kernel⟩, by decide +kernel⟩
/-- P1, against its own figures: 36 steps, 16 requests. -/
theorem witness_LoadIssuesTheRequestTrace :
    loadSteps Config.vectors (p1Header ++ p1Pixels) = 36 ∧ (loadTrace Config.vectors (p1Header ++ p1Pixels)).length = 16 ∧
    (loadTrace Config.vectors (p1Header ++ p1Pixels)).drop 10 =
      [.seek 62, .read 3 62, .read 3 65, .seek 54, .read 3 54, .read 3 57] := by decide +kernel

/-- The P2 stream: P1's picture, height -2. -/
def p2Stream : List Byte := p1Header.take 22 ++ [0xFE, 0xFF, 0xFF, 0xFF] ++ p1Header.drop 26 ++ p2Pixels

theorem witness_RowOrderDoesNotShowInTheFrames :
    (at' .hseek (p1Header ++ p1Pixels)).atLoadStart ∧ (at' .hseek p2Stream).atLoadStart ∧
    (at' .hseek p2Stream).config = (at' .hseek (p1Header ++ p1Pixels)).config ∧
    streamHolds Config.vectors (p1Header ++ p1Pixels) ∧ streamHolds Config.vectors p2Stream ∧
    loadCause Config.vectors (p1Header ++ p1Pixels) = none ∧ loadCause Config.vectors p2Stream = none ∧
    loadWidth p2Stream = loadWidth (p1Header ++ p1Pixels) ∧
    (Header.ofBytes p2Stream).height.toInt = -(Header.ofBytes (p1Header ++ p1Pixels)).height.toInt ∧
    ∀ r, r < loadRows Config.vectors (p1Header ++ p1Pixels) → ∀ j, j < 3 * loadWidth (p1Header ++ p1Pixels) →
      p2Stream[loadRowStart p2Stream r + j]? = (p1Header ++ p1Pixels)[loadRowStart (p1Header ++ p1Pixels) r + j]? :=
  ⟨witness_atLoadStart _, witness_atLoadStart _, rfl, ⟨by decide +kernel, by decide +kernel⟩,
    ⟨by decide +kernel, by decide +kernel⟩, by decide +kernel, by decide +kernel, by decide +kernel, by decide +kernel,
    by decide +kernel⟩

end Sys2Proof.Tests
end

section
/-! SUPPORT. What each turn of the machine can do (spec/00_scope.md R7): the instruction a step runs, what an instruction
leaves alone, where a header operation leads; and from these the statements about the scope. -/

namespace Sys2Proof.Machine

/-! ## The turn runs the decoded instruction (R7, R11, R80) -/

theorem step_illegal {s : State} (h : s.config.legal = false) : step s = .refused .illegalConfiguration := by
  simp [step, h]

theorem sequencerStep_of_decode {s : State} {i : Instr} (h : decode (.phase s.phase.code) = .ok i) :
    sequencerStep s = exec i s := by
  simp only [sequencerStep, h]

theorem commandWrite_of_decode {w : Word} {i : Instr} (s : State) (h : decode (.command w) = .ok i) :
    commandWrite w s = exec i s := by
  simp only [commandWrite, h]

theorem headerStep_of_decode {s : State} {i : Instr} (hp : s.phase = .hseek)
    (h : decode (.header (slice 0 34 s.stream.bytes)) = .ok i) : headerStep s = exec i s := by
  simp only [headerStep, hp, h, if_true]

/-- Only a busy phase names an operation (R11). -/
theorem isBusy_of_operation {p : Phase} {i : Instr} (h : p.operation = some i) : isBusy p = true := by
  rw [isBusy_iff]
  refine ⟨?_, ?_, ?_⟩ <;> (rintro rfl; cases h)

theorem waitStep_busy {s : State} (rest : List Input) (h : isBusy s.phase = true) :
    waitStep s rest = sequencerStep s := if_pos h

/-- Everything a sequencer turn can do: the operation `PHASE` names, or nothing. -/
theorem sequencerStep_cases (s : State) :
    (∃ i, s.phase.operation = some i ∧ sequencerStep s = exec i s) ∨
    (s.phase.operation = none ∧ sequencerStep s = .next s) := by
  unfold sequencerStep
  rw [decode_phase_code]
  cases ho : s.phase.operation with
  | none => exact .inr ⟨rfl, rfl⟩
  | some i => exact .inl ⟨i, rfl, rfl⟩

/-- Everything a command word can do: `START`, an `FRD`, or a refusal. -/
theorem commandWrite_cases (w : Word) (s : State) :
    commandWrite w s = execStart s ∨ (∃ f, f < 2 ^ 24 ∧ commandWrite w s = execFrd f s) ∨
    commandWrite w s = .next (refuseCommand s) := by
  cases hd : decode (.command w) with
  | error e => exact .inr (.inr (by simp only [commandWrite, hd]))
  | ok i =>
    have hx := commandWrite_of_decode s hd
    rcases decodeCommand_cases hd with ⟨rfl, _⟩ | ⟨f, hf, rfl, _⟩
    · exact .inl hx
    · exact .inr (.inl ⟨f, hf, hx⟩)

/-- Everything the header input can do: the whole header, or a sequencer turn (log 17). -/
theorem headerStep_cases (s : State) :
    (∃ h : Header, h.accepted = true ∧ s.stream.bytes.take 34 = h.bytes ∧ headerStep s = execBmp24 h s) ∨
    headerStep s = sequencerStep s := by
  by_cases hp : s.phase = .hseek
  · cases hd : decode (.header (slice 0 34 s.stream.bytes)) with
    | error e => exact .inr (by simp only [headerStep, hp, hd, if_true])
    | ok i =>
      obtain ⟨hl, ha, rfl⟩ := (decodeHeader_ok_iff _ _).mp hd
      exact .inl ⟨_, ha, (Header.bytes_ofBytes hl).symm, headerStep_of_decode hp hd⟩
  · exact .inr (if_neg hp)

/-- A legal step takes the oldest input. -/
theorem step_input {s : State} (x : Input) (rest : List Input) (hl : s.config.legal = true) :
    step { s with inputs := x :: rest } = nextEvent { s with inputs := x :: rest } := step_legal hl

/-- Settles O51: `step` looks at the configuration first. -/
theorem illegalConfigurationIsRefused : Obligations.IllegalConfigurationIsRefused := by
  unfold Obligations.IllegalConfigurationIsRefused
  intro s
  exact step_illegal

/-- Settles O45, by what each kind of turn does with what it decodes. -/
theorem stepRunsTheDecodedInstruction : Obligations.StepRunsTheDecodedInstruction := by
  unfold Obligations.StepRunsTheDecodedInstruction
  intro s i rest hl
  refine ⟨fun hd => ⟨fun hi => ?_, ?_, ?_⟩, fun w hd => ?_, fun hd hp => ?_⟩
  · exact step_operation hl hi (operation_of_decode hd)
  · exact (step_input _ _ hl).trans (sequencerStep_of_decode (s := { s with inputs := rest }) hd)
  · have hb := isBusy_of_operation (operation_of_decode hd)
    exact (step_input _ _ hl).trans ((waitStep_busy (s := { s with inputs := .wait :: rest }) rest hb).trans
      (sequencerStep_of_decode hd))
  · exact (step_input _ _ hl).trans (commandWrite_of_decode { s with inputs := rest } hd)
  · exact (step_input _ _ hl).trans (headerStep_of_decode (s := { s with inputs := rest }) hp hd)

/-! ## A host access of a busy machine (R81 (c), R82 (a), R83, R174) -/

theorem execStart_busy {s : State} (h : isBusy s.phase = true) : execStart s = .next (refuseCommand s) := by
  obtain ⟨hi, _, he⟩ := (isBusy_iff _).mp h
  simp [execStart, hi, he]

theorem execFrd_busy {s : State} (f : Nat) (h : isBusy s.phase = true) :
    execFrd f s = .next { refuseCommand s with answer := .nothing } := by
  obtain ⟨_, hd, _⟩ := (isBusy_iff _).mp h
  simp [execFrd, hd]

/-- While busy every command word is refused; a refused `FRD` also returns no bytes. -/
theorem commandWrite_busy {s : State} (w : Word) (h : isBusy s.phase = true) :
    ∃ a, commandWrite w s = .next { refuseCommand s with answer := a } := by
  rcases commandWrite_cases w s with hx | ⟨f, _, hx⟩ | hx
  · exact ⟨s.answer, hx.trans (execStart_busy h)⟩
  · exact ⟨.nothing, hx.trans (execFrd_busy f h)⟩
  · exact ⟨s.answer, hx⟩

/-- Settles O16: a write is a refused command or is ignored, a read only answers. -/
theorem hostAccessLeavesRunningLoadAlone : Obligations.HostAccessLeavesRunningLoadAlone := by
  unfold Obligations.HostAccessLeavesRunningLoadAlone
  intro s x rest hl hb hx
  rcases hx with ⟨i, w, rfl⟩ | ⟨i, rfl⟩
  · by_cases hi : i = 0
    · obtain ⟨a, ha⟩ := commandWrite_busy (s := { s with inputs := rest }) w hb
      exact ⟨_, (step_input _ _ hl).trans ((if_pos hi).trans ha), rfl, fun _ => rfl⟩
    · exact ⟨{ s with inputs := rest }, (step_input _ _ hl).trans (if_neg hi), rfl, id⟩
  · exact ⟨_, step_input _ _ hl, rfl, id⟩

/-! ## What an instruction leaves alone -/

/-- Every instruction of the sequencer keeps the configuration, the inputs, `CMDERR` and the answer. -/
theorem exec_operation_kept {p : Phase} {i : Instr} {s t : State} (ho : p.operation = some i)
    (h : exec i s = .next t) : Kept s t := by
  obtain ⟨hns, hnf, hnb⟩ := operation_ne ho
  cases i with
  | start => exact absurd rfl hns
  | frd f => exact absurd rfl (hnf f)
  | bmp24 hd => exact absurd rfl (hnb hd)
  | hseek => exact seekThen_kept (fun _ _ => goto_kept) h
  | rdsig | rdpln | rdbpp | rdcmp =>
    refine readThen_kept (fun _ _ _ h => ?_) h
    exact (checkThen_kept h).after ⟨rfl, rfl, rfl, rfl⟩
  | skipa | skipb => exact readThen_kept (fun _ _ _ => goto_kept) h
  | rdoff | rdwid | rdhgt | pixrd =>
    refine readThen_kept (fun _ _ _ h => ?_) h
    exact (goto_kept h).after ⟨rfl, rfl, rfl, rfl⟩
  | rowseek =>
    refine seekThen_kept (fun _ _ h => ?_) h
    exact (goto_kept h).after ⟨rfl, rfl, rfl, rfl⟩
  | stride =>
    simp only [exec, execStride] at h
    split at h
    · exact raiseCheck_kept h
    · exact (goto_kept h).after ⟨rfl, rfl, rfl, rfl⟩
  | clip =>
    simp only [exec, execClip] at h
    split at h
    · exact (raiseCheck_kept h).after ⟨rfl, rfl, rfl, rfl⟩
    · exact (goto_kept h).after ⟨rfl, rfl, rfl, rfl⟩
  | fclear => exact storeFrame_kept (fun _ _ => goto_kept) h
  | pixst =>
    refine storeFrame_kept (fun _ _ h => ?_) h
    exact (goto_kept h).after ⟨rfl, rfl, rfl, rfl⟩
  | blank =>
    simp only [exec, execBlank] at h
    split at h
    · exact goto_kept h
    · exact storeFrame_kept (fun _ _ => goto_kept) h
  | roword | gamma | reord | rowend | finish => exact (goto_kept h).after ⟨rfl, rfl, rfl, rfl⟩

/-- One sequencer operation more still keeps it. -/
theorem andThen_kept {o : Outcome} {p : Phase} {i : Instr} {s t : State} (hp : p.operation = some i)
    (ho : ∀ u, o = .next u → Kept s u) (h : andThen o p (exec i) = .next t) : Kept s t := by
  obtain ⟨u, hu, ⟨_, hx⟩ | ⟨_, rfl⟩⟩ := andThen_next h
  · exact (exec_operation_kept hp hx).after (ho u hu)
  · exact ho _ hu

/-- The header operations taken as one keep what each of the ten keeps. -/
theorem execBmp24_kept {hd : Header} {s t : State} (h : execBmp24 hd s = .next t) : Kept s t := by
  have hseek : ∀ u, execHseek (placeHeader hd s) = .next u → Kept s u := fun u hu =>
    (exec_operation_kept (p := .hseek) rfl hu).after ⟨rfl, rfl, rfl, rfl⟩
  have rdsig := fun u => andThen_kept (p := .rdsig) (t := u) rfl hseek
  have skipa := fun u => andThen_kept (p := .skipa) (t := u) rfl rdsig
  have rdoff := fun u => andThen_kept (p := .rdoff) (t := u) rfl skipa
  have skipb := fun u => andThen_kept (p := .skipb) (t := u) rfl rdoff
  have rdwid := fun u => andThen_kept (p := .rdwid) (t := u) rfl skipb
  have rdhgt := fun u => andThen_kept (p := .rdhgt) (t := u) rfl rdwid
  have rdpln := fun u => andThen_kept (p := .rdpln) (t := u) rfl rdhgt
  have rdbpp := fun u => andThen_kept (p := .rdbpp) (t := u) rfl rdpln
  exact andThen_kept (p := .rdcmp) rfl rdbpp h

theorem execStart_config {s t : State} (h : execStart s = .next t) : t.config = s.config := by
  unfold execStart at h
  split at h <;> (cases h; rfl)

theorem execFrd_config {f : Nat} {s t : State} (h : execFrd f s = .next t) : t.config = s.config := by
  unfold execFrd at h
  split at h
  · obtain ⟨v, _, hk⟩ := loadFrame_cases h
    cases hk
    rfl
  · cases h
    rfl

theorem sequencerStep_kept {s t : State} (h : sequencerStep s = .next t) : Kept s t := by
  rcases sequencerStep_cases s with ⟨i, ho, hx⟩ | ⟨_, hx⟩
  · exact exec_operation_kept ho (hx.symm.trans h)
  · cases hx.symm.trans h
    exact Kept.same s

theorem headerStep_kept {s t : State} (h : headerStep s = .next t) : Kept s t := by
  rcases headerStep_cases s with ⟨hd, _, _, hx⟩ | hx
  · exact execBmp24_kept (hx.symm.trans h)
  · exact sequencerStep_kept (hx.symm.trans h)

theorem hostWrite_config {i : Nat} {w : Word} {s t : State} (h : hostWrite i w s = .next t) : t.config = s.config := by
  unfold hostWrite at h
  split at h
  · rcases commandWrite_cases w s with hx | ⟨f, _, hx⟩ | hx <;> rw [hx] at h
    · exact execStart_config h
    · exact execFrd_config h
    · cases h
      rfl
  · cases h
    rfl

theorem waitStep_config {s t : State} {rest : List Input} (h : waitStep s rest = .next t) : t.config = s.config := by
  unfold waitStep at h
  split at h
  · exact (sequencerStep_kept h).config
  · cases h
    rfl

theorem nextEvent_config {s t : State} (h : nextEvent s = .next t) : t.config = s.config := by
  unfold nextEvent at h
  split at h
  case h_1 => exact (sequencerStep_kept h).config
  case h_2 => exact (sequencerStep_kept h).config
  case h_3 => exact waitStep_config h
  case h_4 => exact (headerStep_kept h).config
  case h_5 => exact (hostWrite_config h).trans rfl
  case h_6 | h_7 | h_8 =>
    cases h
    rfl

/-- Settles O50: whatever happens next, it writes no parameter. -/
theorem configurationNeverChanges : Obligations.ConfigurationNeverChanges := by
  unfold Obligations.ConfigurationNeverChanges
  intro s t h
  obtain ⟨_, hn⟩ := step_next h
  exact nextEvent_config hn

/-! ## Where a header operation leads (R90 to R100) -/

/-- `k` always answers a next state, in phase `q` or trapped. -/
def LeadsTo (k : State → Outcome) (q : Phase) : Prop :=
  ∀ s, ∃ t, k s = .next t ∧ (t.phase = q ∨ t.phase = .error)

theorem goto_leadsTo (q : Phase) : LeadsTo (goto q) q := fun _ => ⟨_, rfl, .inl rfl⟩

theorem checkThen_leadsTo (ok : Bool) (c : Cause) (v : Word) (q : Phase) : LeadsTo (checkThen ok c v q) q := by
  intro s
  cases ok with
  | true => exact ⟨_, checkThen_pass c v q s, .inl rfl⟩
  | false => exact ⟨_, checkThen_fail c v q s, .inr rfl⟩

theorem seekThen_leadsTo {p : Pos} {k : State → Outcome} {q : Phase} (hk : LeadsTo k q) : LeadsTo (seekThen p k) q := by
  intro s
  rcases seekThen_cases (s := s) p k with ⟨e, _, hx⟩ | ⟨_, hx⟩
  · exact ⟨_, hx, .inr rfl⟩
  · rw [hx]
    exact hk _

theorem readThen_leadsTo {n : Nat} {k : List Byte → State → Outcome} {q : Phase} (hk : ∀ b, LeadsTo (k b) q) :
    LeadsTo (readThen n k) q := by
  intro s
  rcases readThen_cases (s := s) n k with ⟨c, io, p, _, hx⟩ | ⟨_, _, _, hx⟩
  · exact ⟨_, hx, .inr rfl⟩
  · rw [hx]
    exact hk _ _

theorem execHseek_leadsTo : LeadsTo execHseek .rdsig := seekThen_leadsTo (goto_leadsTo _)
theorem execRdsig_leadsTo : LeadsTo execRdsig .skipa := readThen_leadsTo fun _ _ => checkThen_leadsTo _ _ _ _ _
theorem execSkipa_leadsTo : LeadsTo execSkipa .rdoff := readThen_leadsTo fun _ => goto_leadsTo _
theorem execRdoff_leadsTo : LeadsTo execRdoff .skipb := readThen_leadsTo fun _ _ => goto_leadsTo _ _
theorem execSkipb_leadsTo : LeadsTo execSkipb .rdwid := readThen_leadsTo fun _ => goto_leadsTo _
theorem execRdwid_leadsTo : LeadsTo execRdwid .rdhgt := readThen_leadsTo fun _ _ => goto_leadsTo _ _
theorem execRdhgt_leadsTo : LeadsTo execRdhgt .rdpln := readThen_leadsTo fun _ _ => goto_leadsTo _ _
theorem execRdpln_leadsTo : LeadsTo execRdpln .rdbpp := readThen_leadsTo fun _ _ => checkThen_leadsTo _ _ _ _ _
theorem execRdbpp_leadsTo : LeadsTo execRdbpp .rdcmp := readThen_leadsTo fun _ _ => checkThen_leadsTo _ _ _ _ _
theorem execRdcmp_leadsTo : LeadsTo execRdcmp .roword := readThen_leadsTo fun _ _ => checkThen_leadsTo _ _ _ _ _

/-! ## A run of header operations (R8, R75) -/

/-- `n` steps from `s` end in the outcome `o`, where the next turn is the sequencer's, in phase `p` or after a trap. -/
def RunsTo (n : Nat) (s : State) (p : Phase) (o : Outcome) : Prop :=
  ∃ u, o = .next u ∧ Host.Core.run Sys2Proof.core n s = .next u ∧ u.config.legal = true ∧ u.inputs = [] ∧
    (u.phase = p ∨ u.phase = .error)

theorem RunsTo.run_eq {n : Nat} {s : State} {p : Phase} {o : Outcome} (h : RunsTo n s p o) :
    Host.Core.run Sys2Proof.core n s = o := by
  obtain ⟨u, ho, hr, _⟩ := h
  exact hr.trans ho.symm

/-- One step more is the operation of the phase reached; after a trap it is the stutter of `ERROR` (log 12). -/
theorem RunsTo.andThen {n : Nat} {s : State} {p q : Phase} {i : Instr} {o : Outcome} (h : RunsTo n s p o)
    (hop : p.operation = some i) (hk : LeadsTo (exec i) q) : RunsTo (n + 1) s q (andThen o p (exec i)) := by
  obtain ⟨u, rfl, hr, hl, hi, hp⟩ := h
  by_cases hup : u.phase = p
  · obtain ⟨t, ht, hq⟩ := hk u
    have hs : step u = .next t := (step_operation hl hi (hup ▸ hop)).trans ht
    have kept := exec_operation_kept hop ht
    exact ⟨t, (andThen_of rfl hup).trans ht, (run_add hr).trans (run_one hs), kept.config ▸ hl,
      kept.inputs.trans hi, hq⟩
  · have he : u.phase = .error := hp.resolve_left hup
    have hs : step u = .next u := step_resting hl hi (by rw [he]; rfl)
    exact ⟨u, andThen_skip rfl hup, (run_add hr).trans (run_one hs), hl, hi, .inr he⟩

/-- From `HSEEK`, ten steps are the ten header operations in order. -/
theorem run_headerOperations {s : State} (hl : s.config.legal = true) (hp : s.phase = .hseek) (hi : s.inputs = []) :
    Host.Core.run Sys2Proof.core 10 s = headerOperations s := by
  have start : RunsTo 0 s .hseek (.next s) := ⟨s, rfl, rfl, hl, hi, .inl hp⟩
  have hseek : RunsTo 1 s .rdsig (execHseek s) := by
    rw [← andThen_of (o := .next s) (k := execHseek) rfl hp]
    exact start.andThen (i := .hseek) rfl execHseek_leadsTo
  have rdsig := hseek.andThen (i := .rdsig) rfl execRdsig_leadsTo
  have skipa := rdsig.andThen (i := .skipa) rfl execSkipa_leadsTo
  have rdoff := skipa.andThen (i := .rdoff) rfl execRdoff_leadsTo
  have skipb := rdoff.andThen (i := .skipb) rfl execSkipb_leadsTo
  have rdwid := skipb.andThen (i := .rdwid) rfl execRdwid_leadsTo
  have rdhgt := rdwid.andThen (i := .rdhgt) rfl execRdhgt_leadsTo
  have rdpln := rdhgt.andThen (i := .rdpln) rfl execRdpln_leadsTo
  have rdbpp := rdpln.andThen (i := .rdbpp) rfl execRdbpp_leadsTo
  have rdcmp := rdbpp.andThen (i := .rdcmp) rfl execRdcmp_leadsTo
  exact rdcmp.run_eq

/-- Settles O28: the header is already the stream's first 34 bytes, so `BMP24` is the ten operations on `s` itself. -/
theorem bmp24IsTheTenHeaderSteps : Obligations.Bmp24IsTheTenHeaderSteps := by
  unfold Obligations.Bmp24IsTheTenHeaderSteps
  intro h s hl hp hi hb
  have hx : headerOperations s = exec (.bmp24 h) s := congrArg headerOperations (placeHeader_self hb).symm
  exact (run_headerOperations hl hp hi).trans hx

end Sys2Proof.Machine
end

section
/-! SUPPORT. Every step keeps the invariant `State.Inv`. Of a state that is not in `ERROR` the invariant is taken apart into
what the completed operations have established (`milestone`) and what holds at the place the sequencer stands (`spot`). -/

namespace Sys2Proof.Machine

/-! ## The invariant taken apart -/

/-- A legal configuration and a `FRAME` in canonical form inside its array (R5, R20). -/
structure FrameOk (c : Config) (m : Memory) : Prop where
  legal : c.legal = true
  wf : m.wf = true
  inRange : ∀ x ∈ m, x.1 < frameBytes c

/-- No error is recorded (R18). -/
def State.NoError (s : State) : Prop := s.errCode = 0 ∧ s.errIo = 0 ∧ s.errValue = 0 ∧ s.errPos = 0

/-- R109, R130 (a): the image frames hold values, and zeros below the rows of the image. -/
def ImageReady (c : Config) (width clipH : Word) (m : Memory) : Prop :=
  m.filled (width.toNat * frameLength c) ∧
  ∀ f p k, f < width.toNat → p + clipH.toNat < c.stripLength.toNat → k < 3 →
    m.read (frameAddress c f p + k) = some 0

/-- R136: without looping the frame behind the image is dark. -/
def BlankReady (c : Config) (width : Word) (m : Memory) : Prop :=
  c.loop = false → ∀ k, k < frameLength c → m.read (width.toNat * frameLength c + k) = some 0

/-- What the operation of a phase has established once it has completed. -/
def State.milestone (s : State) : Phase → Prop
  | .rdsig => s.sig = 0x4D42
  | .rdpln => s.planes = 1
  | .rdbpp => s.bitDepth = 24
  | .rdcmp => s.compression = 0
  | .roword => s.height.toNat = s.heightRaw.toInt.natAbs ∧ (s.rowOrder = .topDown ↔ s.heightRaw.toInt < 0)
  | .stride => s.width = s.widthRaw ∧ s.width.toNat < 2 ^ 31 ∧ s.rowStride.toNat = rowStrideOf s.width.toNat
  | .clip => s.clipH.toNat = min s.height.toNat s.config.stripLength.toNat ∧
      s.frameTotal.toNat = s.width.toNat + blankFrames s.config ∧ s.frameTotal.toNat ≤ s.config.maxFrames.toNat
  | .fclear => ImageReady s.config s.width s.clipH s.frame
  | .blank => BlankReady s.config s.width s.frame
  | _ => True

/-- The operations before phase `p` in execution order have completed. -/
def State.Reached (s : State) (p : Phase) : Prop := ∀ q : Phase, q.rank < p.rank → s.milestone q

/-- Where the counters and `SPOS` stand in a phase (R12, R57, R116 to R118). -/
def State.spot (s : State) : Phase → Prop
  | .rowseek => s.row.toNat < s.clipH.toNat ∧ s.col.toNat ≤ s.width.toNat
  | .pixrd => s.row.toNat < s.clipH.toNat ∧ s.col.toNat < s.width.toNat ∧
      s.spos.toNat = seekTarget s + 3 * s.col.toNat
  | .gamma | .reord | .pixst => s.row.toNat < s.clipH.toNat ∧ s.col.toNat < s.width.toNat ∧
      s.spos.toNat = seekTarget s + 3 * (s.col.toNat + 1)
  | .rowend => s.row.toNat < s.clipH.toNat ∧ s.col.toNat ≤ s.width.toNat ∧
      s.spos.toNat = seekTarget s + 3 * s.width.toNat
  | .blank | .finish | .done => s.row.toNat ≤ s.clipH.toNat ∧ s.col.toNat ≤ s.width.toNat
  | p => s.row = 0 ∧ s.col = 0 ∧ ∀ n, p.headerPosition = some n → s.spos = BitVec.ofNat 64 n

/-- The invariant of a state about to enter phase `p`, whatever `PHASE` holds. -/
structure State.Going (p : Phase) (s : State) : Prop where
  frameOk : FrameOk s.config s.frame
  noError : s.NoError
  count : p ≠ .done → s.frameCount = 0
  published : p = .done → s.frameCount = s.frameTotal
  shadow : isBusy p = true → p ≠ .hseek → s.stream.pos = s.spos
  reached : s.Reached p
  spot : s.spot p

theorem ofCode_code (p : Phase) : Phase.ofCode p.code = some p := by cases p <;> rfl

theorem rank_injective {p q : Phase} (h : p.rank = q.rank) : p = q := by
  have hc : p.code = q.code := BitVec.eq_of_toNat_eq h
  have ho := congrArg Phase.ofCode hc
  rwa [ofCode_code, ofCode_code, Option.some.injEq] at ho

section
variable {s : State} {p : Phase}

theorem spot_headerPlace (h : s.spot p) {n : Nat} (hn : p.headerPosition = some n) : s.spos = BitVec.ofNat 64 n := by
  cases p with
  | idle | rowseek | pixrd | gamma | reord | pixst | rowend | blank | finish | done | error => cases hn
  | _ => exact h.2.2 n hn

theorem spot_countersStart (h : s.spot p) (hp : p.rank ≤ 14) : s.row = 0 ∧ s.col = 0 := by
  cases p with
  | rowseek | pixrd | gamma | reord | pixst | rowend | blank | finish | done => exact absurd hp (by decide)
  | _ => exact ⟨h.1, h.2.1⟩

theorem spot_bounds (h : s.spot p) : s.row.toNat ≤ s.clipH.toNat ∧ s.col.toNat ≤ s.width.toNat := by
  cases p with
  | rowseek => exact ⟨h.1.le, h.2⟩
  | pixrd | gamma | reord | pixst => exact ⟨h.1.le, h.2.1.le⟩
  | rowend => exact ⟨h.1.le, h.2.1⟩
  | blank | finish | done => exact h
  | _ => simp [h.1, h.2.1]

theorem spot_inRow (h : s.spot p) (hp : p.inRow) : s.row.toNat < s.clipH.toNat := by
  cases p with
  | rowseek | pixrd | gamma | reord | pixst | rowend => exact h.1
  | _ => exact hp.elim

theorem spot_inPixel (h : s.spot p) (hp : p.inPixel) : s.col.toNat < s.width.toNat := by
  cases p with
  | pixrd | gamma | reord | pixst => exact h.2.1
  | _ => exact hp.elim

theorem spot_pixelRead (h : s.spot p) (hp : p = .gamma ∨ p = .reord ∨ p = .pixst) :
    s.spos.toNat = seekTarget s + 3 * (s.col.toNat + 1) := by
  rcases hp with rfl | rfl | rfl <;> exact h.2.2

end

/-- The parts make up the invariant. -/
theorem State.Going.inv {s : State} (h : s.Going s.phase) (hp : s.phase ≠ .error) : s.Inv where
  legal := h.frameOk.legal
  frameWf := h.frameOk.wf
  frameInRange := h.frameOk.inRange
  countOnlyInDone := h.count
  noErrorOutsideError _ := h.noError
  errorHasCause he := absurd he hp
  signatureHolds hn := h.reached .rdsig hn.1
  planesHold hn := h.reached .rdpln hn.1
  bitDepthHolds hn := h.reached .rdbpp hn.1
  compressionHolds hn := h.reached .rdcmp hn.1
  headerPlace _ hn := spot_headerPlace h.spot hn
  heightSet hn := h.reached .roword hn.1
  widthSet hn := h.reached .stride hn.1
  clipSet hn := h.reached .clip hn.1
  countersStart hn := spot_countersStart h.spot hn
  rowBound _ := (spot_bounds h.spot).1
  colBound _ := (spot_bounds h.spot).2
  rowInLoop hn := spot_inRow h.spot hn
  colInLoop hn := spot_inPixel h.spot hn
  imageFilled hn := (h.reached .fclear hn.1).1
  unfilledZero hn := (h.reached .fclear hn.1).2
  blankZero hn := h.reached .blank hn.1
  countPublished := h.published
  pixelPlace hd := by
    have hs := h.spot
    rw [hd] at hs
    exact hs.2.2
  pixelRead hd := spot_pixelRead h.spot hd
  rowRead hd := by
    have hs := h.spot
    rw [hd] at hs
    exact hs.2.2
  shadow := h.shadow

theorem State.Inv.frameOk {s : State} (h : s.Inv) : FrameOk s.config s.frame := ⟨h.legal, h.frameWf, h.frameInRange⟩

/-- What the invariant says of the operations that have completed. -/
theorem State.Inv.reached {s : State} (h : s.Inv) (hp : s.phase ≠ .error) : s.Reached s.phase := by
  intro q hn
  unfold State.milestone
  split
  · exact h.signatureHolds ⟨hn, hp⟩
  · exact h.planesHold ⟨hn, hp⟩
  · exact h.bitDepthHolds ⟨hn, hp⟩
  · exact h.compressionHolds ⟨hn, hp⟩
  · exact h.heightSet ⟨hn, hp⟩
  · exact h.widthSet ⟨hn, hp⟩
  · exact h.clipSet ⟨hn, hp⟩
  · exact ⟨h.imageFilled ⟨hn, hp⟩, h.unfilledZero ⟨hn, hp⟩⟩
  · exact h.blankZero ⟨hn, hp⟩
  · trivial

/-- What the invariant says of the place a busy sequencer stands. -/
theorem State.Inv.spot {s : State} {p : Phase} (h : s.Inv) (hp : s.phase = p) (hb : isBusy p = true) : s.spot p := by
  have countersStart : p.rank ≤ 14 → s.row = 0 ∧ s.col = 0 := hp ▸ h.countersStart
  have headerPlace : ∀ n, p.headerPosition = some n → s.spos = BitVec.ofNat 64 n := hp ▸ h.headerPlace
  have rowBound : p.past 13 → s.row.toNat ≤ s.clipH.toNat := hp ▸ h.rowBound
  have colBound : p.past 13 → s.col.toNat ≤ s.width.toNat := hp ▸ h.colBound
  have rowInLoop : p.inRow → s.row.toNat < s.clipH.toNat := hp ▸ h.rowInLoop
  have colInLoop : p.inPixel → s.col.toNat < s.width.toNat := hp ▸ h.colInLoop
  cases p with
  | idle | done | error => exact absurd hb (by decide)
  | rowseek => exact ⟨rowInLoop trivial, colBound ⟨by decide, by decide⟩⟩
  | pixrd => exact ⟨rowInLoop trivial, colInLoop trivial, h.pixelPlace hp⟩
  | gamma => exact ⟨rowInLoop trivial, colInLoop trivial, h.pixelRead (.inl hp)⟩
  | reord => exact ⟨rowInLoop trivial, colInLoop trivial, h.pixelRead (.inr (.inl hp))⟩
  | pixst => exact ⟨rowInLoop trivial, colInLoop trivial, h.pixelRead (.inr (.inr hp))⟩
  | rowend => exact ⟨rowInLoop trivial, colBound ⟨by decide, by decide⟩, h.rowRead hp⟩
  | blank | finish => exact ⟨rowBound ⟨by decide, by decide⟩, colBound ⟨by decide, by decide⟩⟩
  | _ => exact ⟨(countersStart (by decide)).1, (countersStart (by decide)).2, headerPlace⟩

/-- Of a busy machine the invariant has these parts. -/
theorem State.Inv.going {s : State} {p : Phase} (h : s.Inv) (hp : s.phase = p) (hb : isBusy p = true) : s.Going p := by
  have hs := h.spot hp hb
  subst hp
  obtain ⟨_, hd, he⟩ := (isBusy_iff _).mp hb
  exact
    { frameOk := h.frameOk
      noError := h.noErrorOutsideError he
      count := h.countOnlyInDone
      published := h.countPublished
      shadow := h.shadow
      reached := h.reached he
      spot := hs }

/-! ## Entering a phase, a trap, and what the invariant does not read -/

/-- `PHASE <- p` where the parts of `p` hold. -/
theorem State.Going.enter {s : State} {p : Phase} (h : s.Going p) (hp : p ≠ .error) : { s with phase := p }.Inv :=
  State.Going.inv (s := { s with phase := p })
    ⟨h.frameOk, h.noError, h.count, h.published, h.shadow, h.reached, by cases p <;> exact h.spot⟩ hp

theorem inv_goto {s t : State} {p : Phase} (ht : goto p s = .next t) (hp : p ≠ .error) (h : s.Going p) : t.Inv := by
  cases ht
  exact h.enter hp

/-- A trap leaves the invariant, whatever the registers hold (R152). -/
theorem inv_trapped {s : State} (h : FrameOk s.config s.frame) (c : Cause) (value io : Word) (pos : Pos) :
    (s.trapped c.code value io pos).Inv where
  legal := h.legal
  frameWf := h.wf
  frameInRange := h.inRange
  countOnlyInDone _ := rfl
  noErrorOutsideError he := absurd rfl he
  errorHasCause _ := ⟨c, rfl⟩
  signatureHolds hn := absurd rfl hn.2
  planesHold hn := absurd rfl hn.2
  bitDepthHolds hn := absurd rfl hn.2
  compressionHolds hn := absurd rfl hn.2
  headerPlace _ hn := by cases hn
  heightSet hn := absurd rfl hn.2
  widthSet hn := absurd rfl hn.2
  clipSet hn := absurd rfl hn.2
  countersStart hn := absurd hn (show ¬Phase.error.rank ≤ 14 by decide)
  rowBound hn := absurd rfl hn.2
  colBound hn := absurd rfl hn.2
  rowInLoop hn := hn.elim
  colInLoop hn := hn.elim
  imageFilled hn := absurd rfl hn.2
  unfilledZero hn := absurd rfl hn.2
  blankZero hn := absurd rfl hn.2
  countPublished hd := by cases hd
  pixelPlace hd := by cases hd
  pixelRead hd := by rcases hd with hd | hd | hd <;> cases hd
  rowRead hd := by cases hd
  shadow hb := absurd hb (show ¬isBusy .error = true by decide)

/-- The invariant does not read the host's side, the model's own lists, nor the bytes of the stream. -/
theorem State.Inv.outside {s : State} (h : s.Inv) (b : List Byte) (e : Bool) (l : List Request) (i : List Input)
    (x : HostAnswer) :
    { s with stream := { s.stream with bytes := b }, cmdErr := e, trace := l, inputs := i, answer := x }.Inv :=
  { h with }

theorem inv_resetWith {c : Config} (a : StreamAgent) (hc : c.legal = true) : (State.resetWith c a).Inv :=
  State.Going.inv
    { frameOk := ⟨hc, rfl, by simp⟩
      noError := ⟨rfl, rfl, rfl, rfl⟩
      count := fun _ => rfl
      published := fun _ => rfl
      shadow := fun hb => absurd hb (show ¬isBusy .idle = true by decide)
      reached := fun _ hn => absurd hn (Nat.not_lt_zero _)
      spot := ⟨rfl, rfl, fun _ hn => by cases hn⟩ }
    (show Phase.idle ≠ .error by decide)

/-- The operation of `p` completes. -/
theorem State.Reached.next {s : State} {p q : Phase} (h : s.Reached p) (hq : q.rank = p.rank + 1)
    (hp : s.milestone p) : s.Reached q := by
  intro r hr
  rcases Nat.lt_succ_iff_lt_or_eq.mp (hq ▸ hr) with hlt | heq
  · exact h r hlt
  · exact rank_injective heq ▸ hp

/-- The operations of the row loop establish nothing that lasts. -/
theorem State.Reached.throughRows {s : State} {p : Phase} (h : s.Reached .rowseek) (hp : p.rank ≤ 21) :
    s.Reached p := by
  intro q hq
  cases q with
  | rowseek | pixrd | gamma | reord | pixst | rowend => trivial
  | blank | finish | done | error => exact absurd (hq.trans_le hp) (by decide)
  | _ => exact h _ (by decide)

/-! ## The shared operations keep the invariant -/

theorem inv_checkThen {ok : Bool} {c : Cause} {v : Word} {p : Phase} {s t : State}
    (h : checkThen ok c v p s = .next t) (hp : p ≠ .error) (hf : FrameOk s.config s.frame)
    (hk : ok = true → s.Going p) : t.Inv := by
  rcases checkThen_next h with ⟨hok, rfl⟩ | ⟨_, rfl⟩
  · exact (hk hok).enter hp
  · exact inv_trapped hf c v 0 s.spos

theorem inv_readThen {n : Nat} {k : List Byte → State → Outcome} {s t : State} (h : readThen n k s = .next t)
    (hf : FrameOk s.config s.frame) (hk : ∀ b, b.length = n → k b (s.served n) = .next t → t.Inv) : t.Inv := by
  rcases readThen_answers h with ⟨c, io, p, rfl | rfl, rfl⟩ | ⟨_, _, hl, h⟩
  · exact inv_trapped (s := s.afterRequest _ _) hf .ioBusy 0 io s.spos
  · exact inv_trapped (s := s.afterRequest _ _) hf .ioGeneric 0 io s.spos
  · exact hk _ hl h

theorem inv_seekThen {p : Pos} {k : State → Outcome} {s t : State} (h : seekThen p k s = .next t)
    (hf : FrameOk s.config s.frame) (hk : k { s.afterRequest (.seek p) p with spos := p } = .next t → t.Inv) :
    t.Inv := by
  rcases seekThen_next h with ⟨e, _, rfl⟩ | ⟨_, h⟩
  · rw [← ioCause_code]
    exact inv_trapped (s := s.afterRequest _ _) hf _ 0 e.code p
  · exact hk h

theorem FrameOk.writeBytes {c : Config} {m : Memory} {a : Nat} {v : List Byte} (h : FrameOk c m)
    (ha : a + v.length ≤ frameBytes c) : FrameOk c (m.writeBytes a v) :=
  ⟨h.legal, Memory.wf_writeBytes a v h.wf, Memory.inRange_writeBytes h.inRange ha⟩

/-! ## The header operations (R91 to R100) -/

/-- Between the header operations: the stream stands at `n`, no counter has moved. -/
def State.Parsing (s : State) (n : Nat) : Prop :=
  s.NoError ∧ s.frameCount = 0 ∧ s.row = 0 ∧ s.col = 0 ∧ s.spos = BitVec.ofNat 64 n ∧ s.stream.pos = s.spos

theorem State.Going.parsing {s : State} {p : Phase} {n : Nat} (h : s.Going p) (hn : p.headerPosition = some n)
    (hb : p ≠ .hseek) : s.Parsing n := by
  have hs := spot_headerPlace h.spot hn
  cases p with
  | hseek => exact absurd rfl hb
  | idle | rowseek | pixrd | gamma | reord | pixst | rowend | blank | finish | done | error => cases hn
  | _ => exact ⟨h.noError, h.count (by decide), h.spot.1, h.spot.2.1, hs, h.shadow (by decide) (by decide)⟩

theorem State.Parsing.served {s : State} {n : Nat} (h : s.Parsing n) (m : Nat) : (s.served m).Parsing (n + m) := by
  obtain ⟨he, hc, hrow, hcol, hspos, hpos⟩ := h
  refine ⟨he, hc, hrow, hcol, ?_, ?_⟩
  · rw [served_spos, hspos, BitVec.ofNat_add]
  · exact congrArg (· + BitVec.ofNat 64 m) hpos

theorem State.Reached.served {s : State} {p : Phase} (h : s.Reached p) (m : Nat) : (s.served m).Reached p := by
  intro q hq
  cases q <;> exact h _ hq

section
variable {s : State} {sig planes bitDepth : Half} {dataOffset widthRaw heightRaw compression : Word}

/-- The latches are not read between the header operations. -/
theorem State.Parsing.latched {n : Nat} (h : s.Parsing n) :
    { s with
      sig := sig, dataOffset := dataOffset, widthRaw := widthRaw, heightRaw := heightRaw, planes := planes
      bitDepth := bitDepth, compression := compression }.Parsing n := h

/-- A check that has been passed holds of a latch that is not written again. -/
theorem State.Reached.latched {p : Phase} (h : s.Reached p) (hp : p.rank ≤ 10) (hsig : p.rank ≤ 2 ∨ sig = s.sig)
    (hplanes : p.rank ≤ 8 ∨ planes = s.planes) (hdepth : p.rank ≤ 9 ∨ bitDepth = s.bitDepth) :
    { s with
      sig := sig, dataOffset := dataOffset, widthRaw := widthRaw, heightRaw := heightRaw, planes := planes
      bitDepth := bitDepth, compression := compression }.Reached p := by
  intro q hq
  cases q with
  | rdsig => exact (hsig.resolve_left (not_le.mpr hq)).trans (h .rdsig hq)
  | rdpln => exact (hplanes.resolve_left (not_le.mpr hq)).trans (h .rdpln hq)
  | rdbpp => exact (hdepth.resolve_left (not_le.mpr hq)).trans (h .rdbpp hq)
  | rdcmp | roword | stride | clip | fclear | blank => exact absurd (hq.trans_le hp) (by decide)
  | _ => trivial

end

theorem State.Parsing.going {s : State} {n : Nat} {q : Phase} (h : s.Parsing n) (hf : FrameOk s.config s.frame)
    (hn : q.headerPosition = some n) (hr : s.Reached q) : s.Going q := by
  obtain ⟨he, hc, hrow, hcol, hspos, hpos⟩ := h
  have hs : ∀ m, q.headerPosition = some m → s.spos = BitVec.ofNat 64 m := by
    intro m hm
    cases hn.symm.trans hm
    exact hspos
  refine ⟨hf, he, fun _ => hc, fun hd => ?_, fun _ _ => hpos, hr, ?_⟩
  · subst hd
    cases hn
  · cases q with
    | idle | rowseek | pixrd | gamma | reord | pixst | rowend | blank | finish | done | error => cases hn
    | _ => exact ⟨hrow, hcol, hs⟩

/-- A read in the header: it traps, or the next `m` bytes are at hand. -/
theorem inv_headerRead {p : Phase} {n m : Nat} {k : List Byte → State → Outcome} {s t : State}
    (ht : readThen m k s = .next t) (h : s.Going p) (hn : p.headerPosition = some n) (hb : p ≠ .hseek)
    (hk : ∀ b, b.length = m → (s.served m).Parsing (n + m) → (s.served m).Reached p → k b (s.served m) = .next t →
      t.Inv) : t.Inv :=
  inv_readThen ht h.frameOk fun b hl => hk b hl ((h.parsing hn hb).served m) (h.reached.served m)

/-- The check after a read in the header: it traps, or the operation has completed. -/
theorem inv_headerCheck {ok : Bool} {c : Cause} {v : Word} {q : Phase} {n : Nat} {s t : State}
    (h : checkThen ok c v q s = .next t) (hs : s.Parsing n) (hf : FrameOk s.config s.frame)
    (hn : q.headerPosition = some n) (hr : ok = true → s.Reached q) : t.Inv := by
  refine inv_checkThen h ?_ hf fun hok => hs.going hf hn (hr hok)
  rintro rfl
  cases hn

theorem execHseek_inv {s t : State} (h : s.Going .hseek) (ht : execHseek s = .next t) : t.Inv := by
  refine inv_seekThen ht h.frameOk fun hk => inv_goto hk (by decide) ?_
  have hp : ({ s.afterRequest (.seek 0) 0 with spos := 0 } : State).Parsing 0 :=
    ⟨h.noError, h.count (by decide), h.spot.1, h.spot.2.1, rfl, rfl⟩
  exact hp.going h.frameOk rfl (State.Reached.next (p := .hseek) h.reached rfl trivial)

/-- The two bytes `RDSIG` compares are the signature, least significant first (R92). -/
theorem le16_signature {b : List Byte} (hl : b.length = 2) (h : (b.getD 0 0 == 0x42 && b.getD 1 0 == 0x4D) = true) :
    le16 b = 0x4D42 := by
  obtain ⟨b0, b1, rfl⟩ := List.length_eq_two.mp hl
  simp only [List.getD_cons_zero, List.getD_cons_succ, Bool.and_eq_true, beq_iff_eq] at h
  obtain ⟨rfl, rfl⟩ := h
  rfl

/-- The ten header operations keep the invariant: what each latches is read by its own check only. -/
theorem exec_headerOperation_inv {p : Phase} {i : Instr} {s t : State} (h : s.Going p) (ho : p.operation = some i)
    (hp : p.rank ≤ 10) (ht : exec i s = .next t) : t.Inv := by
  cases p with
  | hseek =>
    cases ho
    exact execHseek_inv h ht
  | rdsig =>
    cases ho
    exact inv_headerRead ht h rfl (by decide) fun _ hl hs hr hk => inv_headerCheck hk hs.latched h.frameOk rfl fun hok =>
      (hr.latched hp (.inl (by decide)) (.inr rfl) (.inr rfl)).next rfl (le16_signature hl hok)
  | skipa | skipb =>
    cases ho
    exact inv_headerRead ht h rfl (by decide) fun _ _ hs hr hk =>
      inv_goto hk (by decide) (hs.going h.frameOk rfl (hr.next rfl trivial))
  | rdoff | rdwid | rdhgt =>
    cases ho
    exact inv_headerRead ht h rfl (by decide) fun _ _ hs hr hk => inv_goto hk (by decide)
      (State.Parsing.going hs.latched h.frameOk rfl ((hr.latched hp (.inr rfl) (.inr rfl) (.inr rfl)).next rfl trivial))
  | rdpln =>
    cases ho
    exact inv_headerRead ht h rfl (by decide) fun _ _ hs hr hk => inv_headerCheck hk hs.latched h.frameOk rfl fun hok =>
      (hr.latched hp (.inr rfl) (.inl (by decide)) (.inr rfl)).next rfl (beq_iff_eq.mp hok)
  | rdbpp =>
    cases ho
    exact inv_headerRead ht h rfl (by decide) fun _ _ hs hr hk => inv_headerCheck hk hs.latched h.frameOk rfl fun hok =>
      (hr.latched hp (.inr rfl) (.inr rfl) (.inl (by decide))).next rfl (beq_iff_eq.mp hok)
  | rdcmp =>
    cases ho
    exact inv_headerRead ht h rfl (by decide) fun _ _ hs hr hk => inv_headerCheck hk hs.latched h.frameOk rfl fun hok =>
      (hr.latched hp (.inr rfl) (.inr rfl) (.inr rfl)).next rfl (beq_iff_eq.mp hok)
  | idle => cases ho
  | _ => exact absurd hp (by decide)

/-! ## The geometry operations (R106 to R109) -/

section
variable {s : State}

theorem State.Reached.setHeight (h : s.Reached .roword) (o : RowOrder) (v : Word) :
    { s with rowOrder := o, height := v }.Reached .roword := by
  intro q hq
  cases q with
  | roword | clip => exact absurd hq (by decide)
  | _ => exact h _ hq

theorem State.Reached.setWidth (h : s.Reached .stride) (w : Word) (r : BitVec 64) :
    { s with width := w, rowStride := r }.Reached .stride := by
  intro q hq
  cases q with
  | stride | clip | fclear | blank => exact absurd hq (by decide)
  | _ => exact h _ hq

theorem State.Reached.setClip (h : s.Reached .clip) (c f r : Word) :
    { s with clipH := c, frameTotal := f, row := r }.Reached .clip := by
  intro q hq
  cases q with
  | clip | fclear => exact absurd hq (by decide)
  | _ => exact h _ hq

/-- The operations before `FCLEAR` establish nothing of `FRAME`. -/
theorem State.Reached.setFrame (h : s.Reached .fclear) (m : Memory) : { s with frame := m }.Reached .fclear := by
  intro q hq
  cases q with
  | fclear | blank => exact absurd hq (by decide)
  | _ => exact h _ hq

end

theorem execRoword_inv {s t : State} (h : s.Going .roword) (ht : execRoword s = .next t) : t.Inv := by
  obtain ⟨he, hc, hrow, hcol, hspos, hpos⟩ := h.parsing rfl (by decide)
  refine inv_goto ht (by decide) (State.Parsing.going ⟨he, hc, hrow, hcol, hspos, hpos⟩ h.frameOk rfl ?_)
  exact (h.reached.setHeight _ _).next rfl ⟨heightMagnitude_toNat _, rowOrderOf_eq_topDown _⟩

theorem toNat_lt_of_toInt_nonneg {w : Word} (h : ¬sint32 w < 0) : w.toNat < 2 ^ 31 := by
  rw [sint32_eq_toInt, BitVec.toInt_eq_toNat_cond] at h
  have := w.isLt
  split at h <;> omega

theorem execStride_inv {s t : State} (h : s.Going .stride) (ht : execStride s = .next t) : t.Inv := by
  unfold execStride at ht
  split at ht
  · cases ht
    exact inv_trapped h.frameOk .geoWidthNegative _ _ _
  · rename_i hw
    obtain ⟨he, hc, hrow, hcol, hspos, hpos⟩ := h.parsing rfl (by decide)
    refine inv_goto ht (by decide) (State.Parsing.going ⟨he, hc, hrow, hcol, hspos, hpos⟩ h.frameOk rfl ?_)
    exact (h.reached.setWidth _ _).next rfl ⟨rfl, toNat_lt_of_toInt_nonneg hw, rowStrideOf_toNat _⟩

theorem clippedHeight_toNat (c : Config) (v : Word) :
    (BitVec.ofNat 32 (clippedHeight c v)).toNat = min v.toNat c.stripLength.toNat := by
  have := v.isLt
  rw [BitVec.toNat_ofNat]
  exact Nat.mod_eq_of_lt (lt_of_le_of_lt (Nat.min_le_left _ _) this)

theorem frameTotalOf_toNat {c : Config} {w : Word} (h : frameTotalOf c w ≤ c.maxFrames.toNat) :
    (BitVec.ofNat 32 (frameTotalOf c w)).toNat = frameTotalOf c w := by
  rw [BitVec.toNat_ofNat]
  exact Nat.mod_eq_of_lt (lt_of_le_of_lt h c.maxFrames.isLt)

theorem execClip_inv {s t : State} (h : s.Going .clip) (ht : execClip s = .next t) : t.Inv := by
  unfold execClip at ht
  split at ht
  · cases ht
    exact inv_trapped (s := clipRegisters s) h.frameOk .capFrames _ _ _
  · rename_i hm
    have hm : frameTotalOf s.config s.width ≤ s.config.maxFrames.toNat := Nat.le_of_not_lt hm
    obtain ⟨he, hc, _, hcol, hspos, hpos⟩ := h.parsing rfl (by decide)
    refine inv_goto ht (by decide) (State.Parsing.going ⟨he, hc, rfl, hcol, hspos, hpos⟩ h.frameOk rfl ?_)
    have ht := frameTotalOf_toNat hm
    exact (h.reached.setClip _ _ _).next rfl ⟨clippedHeight_toNat _ _, ht, ht.trans_le hm⟩

theorem imageReady_zeros (c : Config) (width clipH : Word) (m : Memory) :
    ImageReady c width clipH (m.writeBytes 0 (zeros (width.toNat * frameLength c))) := by
  refine ⟨fun a ha => ⟨0, Memory.read_writeBytes_zeros m (by omega)⟩, fun f p k hf hp hk => ?_⟩
  have := pixel_inFrames (c := c) (p := p) hf (by omega) hk
  exact Memory.read_writeBytes_zeros m (by omega)

theorem blankReady_zeros (c : Config) (width : Word) (m : Memory) :
    BlankReady c width (m.writeBytes (width.toNat * frameLength c) (zeros (frameLength c))) := by
  intro _ k hk
  exact Memory.read_writeBytes_zeros m (by omega)

/-! ## The row loop (R116 to R118, R126, R129, R130) -/

/-- In the row loop: no error, nothing published, `SPOS` exact, and the image frames ready. -/
def State.Rows (s : State) : Prop :=
  s.NoError ∧ s.frameCount = 0 ∧ s.stream.pos = s.spos ∧ s.Reached .rowseek

theorem State.Going.rows {s : State} {p : Phase} (h : s.Going p) (hb : isBusy p = true) (hp : 15 ≤ p.rank) :
    s.Rows := by
  obtain ⟨_, hd, _⟩ := (isBusy_iff _).mp hb
  have hs : p ≠ .hseek := by
    rintro rfl
    exact absurd hp (by decide)
  exact ⟨h.noError, h.count hd, h.shadow hb hs, fun q hq => h.reached q (lt_of_lt_of_le hq hp)⟩

theorem State.Rows.going {s : State} {p : Phase} (h : s.Rows) (hf : FrameOk s.config s.frame) (hp : p.rank ≤ 21)
    (hs : s.spot p) : s.Going p := by
  obtain ⟨he, hc, hpos, hr⟩ := h
  have hd : p ≠ .done := by
    rintro rfl
    exact absurd hp (by decide)
  exact ⟨hf, he, fun _ => hc, fun h => absurd h hd, fun _ _ => hpos, hr.throughRows hp, hs⟩

theorem execFclear_inv {s t : State} (h : s.Going .fclear) (ht : execFclear s = .next t) : t.Inv := by
  obtain ⟨ha, hk⟩ := storeFrame_cases ht
  have hf := h.frameOk.writeBytes ha
  obtain ⟨he, hc, hrow, hcol, _, hpos⟩ := h.parsing rfl (by decide)
  have hr : ({ s with frame := s.frame.writeBytes 0 (zeros (s.width.toNat * frameLength s.config)) } : State).Rows :=
    ⟨he, hc, hpos, (h.reached.setFrame _).next rfl (imageReady_zeros _ _ _ _)⟩
  unfold beginRows at hk
  split at hk
  · exact inv_goto hk (by decide) (hr.going hf (by decide) (by simp [State.spot, hrow, hcol]))
  · rename_i hh
    have hh : 0 < s.clipH.toNat := Nat.pos_of_ne_zero fun h0 => hh ((word_zero_iff _).mpr h0)
    exact inv_goto hk (by decide) (hr.going hf (by decide) (by simp [State.spot, hrow, hcol, hh]))

/-- The rows of the image lie in 63 bits, so that no position of a pixel wraps (R110). -/
theorem seekTarget_lt {s : State} (h : s.Reached .fclear) (hrow : s.row.toNat < s.clipH.toNat) :
    seekTarget s + 3 * s.width.toNat < 2 ^ 64 := by
  obtain ⟨hheight, _⟩ := h .roword (by decide)
  obtain ⟨_, hwidth, hstride⟩ := h .stride (by decide)
  obtain ⟨hclip, _⟩ := h .clip (by decide)
  have hsource : sourceRow s ≤ 2 ^ 31 - 1 := by
    have h1 := BitVec.le_toInt s.heightRaw
    have h2 := BitVec.toInt_lt (x := s.heightRaw)
    unfold sourceRow
    split <;> omega
  have hpad := (rowStrideOf_bounds s.width.toNat).2.2
  have hrows : sourceRow s * s.rowStride.toNat ≤ (2 ^ 31 - 1) * (3 * 2 ^ 31) :=
    Nat.mul_le_mul hsource (by omega)
  have := s.dataOffset.isLt
  unfold seekTarget
  omega

theorem execRowseek_inv {s t : State} (h : s.Going .rowseek) (ht : execRowseek s = .next t) : t.Inv := by
  refine inv_seekThen ht h.frameOk fun hk => ?_
  obtain ⟨hrow, _⟩ := h.spot
  have hlt := seekTarget_lt (fun q hq => h.reached q (hq.trans (by decide))) hrow
  have hpos : (BitVec.ofNat 64 (seekTarget s)).toNat = seekTarget s := by
    rw [BitVec.toNat_ofNat]
    exact Nat.mod_eq_of_lt (by omega)
  generalize BitVec.ofNat 64 (seekTarget s) = p at hk hpos
  have hr : ({ s.afterRequest (.seek p) p with spos := p, col := 0 } : State).Rows :=
    ⟨h.noError, h.count (by decide), rfl, fun q hq => by cases q <;> exact h.reached _ hq⟩
  unfold beginRow at hk
  split at hk
  · rename_i hw
    have hw : s.width.toNat = 0 := (word_zero_iff _).mp hw
    refine inv_goto hk (by decide) (hr.going h.frameOk (by decide) ⟨hrow, Nat.zero_le _, hpos.trans ?_⟩)
    show seekTarget s = seekTarget s + 3 * s.width.toNat
    omega
  · rename_i hw
    have hw : 0 < s.width.toNat := Nat.pos_of_ne_zero fun h0 => hw ((word_zero_iff _).mpr h0)
    exact inv_goto hk (by decide) (hr.going h.frameOk (by decide) ⟨hrow, hw, hpos⟩)

section
variable {s : State}

/-- The counters and the datapath registers are part of no milestone. -/
theorem State.Rows.moved (h : s.Rows) {row col : Word} {pix cor out : Triple} :
    { s with row := row, col := col, pix := pix, cor := cor, out := out }.Rows := by
  obtain ⟨he, hc, hpos, hr⟩ := h
  exact ⟨he, hc, hpos, fun q hq => by cases q <;> exact hr _ hq⟩

theorem State.Rows.served (h : s.Rows) (n : Nat) : (s.served n).Rows := by
  obtain ⟨he, hc, hpos, hr⟩ := h
  exact ⟨he, hc, congrArg (· + BitVec.ofNat 64 n) hpos, hr.served n⟩

theorem State.Rows.setFrame (h : s.Rows) {m : Memory} (hm : ImageReady s.config s.width s.clipH m) :
    { s with frame := m }.Rows := by
  obtain ⟨he, hc, hpos, hr⟩ := h
  have hr : s.Reached .fclear := fun q hq => hr q (hq.trans (by decide))
  exact ⟨he, hc, hpos, (hr.setFrame m).next rfl hm⟩

end

/-- A store above the dark rows of every image frame keeps the image frames ready. -/
theorem ImageReady.writeBytes {c : Config} {width clipH : Word} {m : Memory} {a : Nat} {v : List Byte}
    (h : ImageReady c width clipH m)
    (ha : ∀ f p k, f < width.toNat → p + clipH.toNat < c.stripLength.toNat → k < 3 →
      frameAddress c f p + k < a ∨ a + v.length ≤ frameAddress c f p + k) :
    ImageReady c width clipH (m.writeBytes a v) := by
  obtain ⟨hfilled, hzero⟩ := h
  refine ⟨fun x hx => Memory.exists_read_writeBytes (hfilled x hx), fun f p k hf hp hk => ?_⟩
  rw [Memory.read_writeBytes_outside m v (ha f p k hf hp hk)]
  exact hzero f p k hf hp hk

/-- The seek target does not depend on the pixel nor on the position of the stream (R116). -/
theorem seekTarget_served (s : State) (n : Nat) (pix : Triple) :
    seekTarget { s.served n with pix := pix } = seekTarget s := by
  unfold seekTarget sourceRow
  rfl

theorem execPixrd_inv {s t : State} (h : s.Going .pixrd) (ht : execPixrd s = .next t) : t.Inv := by
  refine inv_readThen ht h.frameOk fun b _ hk => ?_
  obtain ⟨hrow, hcol, hspos⟩ := h.spot
  have hlt := seekTarget_lt (fun q hq => h.reached q (hq.trans (by decide))) hrow
  have hread : (s.spos + BitVec.ofNat 64 3).toNat = seekTarget s + 3 * (s.col.toNat + 1) := by
    rw [BitVec.toNat_add, BitVec.toNat_ofNat]
    omega
  refine inv_goto hk (by decide) (State.Rows.going ((h.rows rfl (by decide)).served 3).moved h.frameOk (by decide)
    ⟨hrow, hcol, ?_⟩)
  rw [seekTarget_served]
  exact hread

/-- R117, R130: the reads of a row follow the column. -/
theorem inv_nextPixel {s t : State} (h : s.Rows) (hf : FrameOk s.config s.frame) (hs : s.spot .pixst)
    (ht : nextPixel s = .next t) : t.Inv := by
  obtain ⟨hrow, hcol, hspos⟩ := hs
  have hnext : (BitVec.ofNat 32 (s.col.toNat + 1)).toNat = s.col.toNat + 1 := by
    have := s.width.isLt
    rw [BitVec.toNat_ofNat]
    omega
  unfold nextPixel at ht
  generalize BitVec.ofNat 32 (s.col.toNat + 1) = c at ht hnext
  rw [← hnext] at hspos
  split at ht
  · rename_i hc
    exact inv_goto ht (by decide) (State.Rows.going h.moved hf (by decide) ⟨hrow, hnext.trans_lt hc, hspos⟩)
  · have hc : c.toNat = s.width.toNat := by omega
    rw [hc] at hspos
    exact inv_goto ht (by decide) (State.Rows.going h.moved hf (by decide) ⟨hrow, hc.le, hspos⟩)

theorem execPixst_inv {s t : State} (h : s.Going .pixst) (ht : execPixst s = .next t) : t.Inv := by
  obtain ⟨ha, hk⟩ := storeFrame_cases ht
  have hclip : s.clipH.toNat ≤ s.config.stripLength.toNat :=
    (h.reached .clip (by decide)).1.trans_le (Nat.min_le_right _ _)
  have hrow : s.row.toNat < s.clipH.toNat := h.spot.1
  have hm : ImageReady s.config s.width s.clipH (s.frame.writeBytes (pixelAddress s) s.out.bytes) := by
    refine ImageReady.writeBytes (h.reached .fclear (by decide)) fun f p k _ hp hk => ?_
    have hp' : stripPosition s < s.config.stripLength.toNat ∧ p ≠ stripPosition s := by
      unfold stripPosition
      omega
    have := frameAddress_apart (c := s.config) (f := f) (f' := s.col.toNat) (p := p) (by omega) hp'.1 (.inr hp'.2)
    have hl : s.out.bytes.length = 3 := rfl
    unfold pixelAddress
    omega
  exact inv_nextPixel ((h.rows rfl (by decide)).setFrame hm) (h.frameOk.writeBytes ha) h.spot hk

theorem execRowend_inv {s t : State} (h : s.Going .rowend) (ht : execRowend s = .next t) : t.Inv := by
  obtain ⟨hrow, hcol, _⟩ := h.spot
  have hr := h.rows rfl (by decide)
  have hnext : (BitVec.ofNat 32 (s.row.toNat + 1)).toNat = s.row.toNat + 1 := by
    have := s.clipH.isLt
    rw [BitVec.toNat_ofNat]
    omega
  unfold execRowend at ht
  generalize BitVec.ofNat 32 (s.row.toNat + 1) = r at ht hnext
  split at ht
  · rename_i hc
    exact inv_goto ht (by decide) (State.Rows.going hr.moved h.frameOk (by decide) ⟨hnext.trans_lt hc, hcol⟩)
  · exact inv_goto ht (by decide) (State.Rows.going hr.moved h.frameOk (by decide) ⟨hnext.trans_le hrow, hcol⟩)

theorem execGamma_inv {s t : State} (h : s.Going .gamma) (ht : execGamma s = .next t) : t.Inv :=
  inv_goto ht (by decide) (State.Rows.going (h.rows rfl (by decide)).moved h.frameOk (by decide) h.spot)

theorem execReord_inv {s t : State} (h : s.Going .reord) (ht : execReord s = .next t) : t.Inv :=
  inv_goto ht (by decide) (State.Rows.going (h.rows rfl (by decide)).moved h.frameOk (by decide) h.spot)

/-! ## The end of a load (R136, R137) -/

theorem inv_gotoFinish {s t : State} (h : s.Rows) (hf : FrameOk s.config s.frame) (hs : s.spot .blank)
    (hb : BlankReady s.config s.width s.frame) (ht : goto .finish s = .next t) : t.Inv := by
  have hg : s.Going .blank := h.going hf (by decide) hs
  exact inv_goto ht (by decide)
    { hg with
      count := fun _ => hg.count (by decide)
      published := fun hd => by cases hd
      shadow := fun _ _ => hg.shadow rfl (by decide)
      reached := hg.reached.next rfl hb }

theorem execBlank_inv {s t : State} (h : s.Going .blank) (ht : execBlank s = .next t) : t.Inv := by
  have hr := h.rows rfl (by decide)
  unfold execBlank at ht
  split at ht
  · rename_i hl
    exact inv_gotoFinish hr h.frameOk h.spot (fun hn => absurd (hl.symm.trans hn) (by decide)) ht
  · obtain ⟨ha, hk⟩ := storeFrame_cases ht
    have hm : ImageReady s.config s.width s.clipH (s.frame.writeBytes (s.width.toNat * frameLength s.config)
        (zeros (frameLength s.config))) := by
      refine ImageReady.writeBytes (h.reached .fclear (by decide)) fun f p k hf hp hk => .inl ?_
      exact pixel_inFrames (p := p) hf (by omega) hk
    exact inv_gotoFinish (hr.setFrame hm) (h.frameOk.writeBytes ha) h.spot (blankReady_zeros _ _ _) hk

theorem State.Reached.done {s : State} (h : s.Reached .finish) : s.Reached .done := by
  intro q hq
  by_cases hlt : q.rank < Phase.finish.rank
  · exact h q hlt
  · cases q with
    | finish => trivial
    | done | error => exact absurd hq (by decide)
    | _ => exact absurd (by decide) hlt

theorem execFinish_inv {s t : State} (h : s.Going .finish) (ht : execFinish s = .next t) : t.Inv :=
  inv_goto ht (by decide)
    { frameOk := h.frameOk
      noError := h.noError
      count := fun hd => absurd rfl hd
      published := fun _ => rfl
      shadow := fun hb => absurd hb (by decide)
      reached := h.reached.done
      spot := h.spot }

/-! ## Steps -/

/-- Every operation of the sequencer keeps the invariant. -/
theorem exec_operation_inv {p : Phase} {i : Instr} {s t : State} (h : s.Inv) (hp : s.phase = p)
    (ho : p.operation = some i) (ht : exec i s = .next t) : t.Inv := by
  have hg := h.going hp (isBusy_of_operation ho)
  by_cases hr : p.rank ≤ 10
  · exact exec_headerOperation_inv hg ho hr ht
  · cases p with
    | roword => cases ho; exact execRoword_inv hg ht
    | stride => cases ho; exact execStride_inv hg ht
    | clip => cases ho; exact execClip_inv hg ht
    | fclear => cases ho; exact execFclear_inv hg ht
    | rowseek => cases ho; exact execRowseek_inv hg ht
    | pixrd => cases ho; exact execPixrd_inv hg ht
    | gamma => cases ho; exact execGamma_inv hg ht
    | reord => cases ho; exact execReord_inv hg ht
    | pixst => cases ho; exact execPixst_inv hg ht
    | rowend => cases ho; exact execRowend_inv hg ht
    | blank => cases ho; exact execBlank_inv hg ht
    | finish => cases ho; exact execFinish_inv hg ht
    | done | error => cases ho
    | _ => exact absurd (by decide) hr

theorem sequencerStep_inv {s t : State} (h : s.Inv) (ht : sequencerStep s = .next t) : t.Inv := by
  rcases sequencerStep_cases s with ⟨i, ho, hx⟩ | ⟨_, hx⟩
  · exact exec_operation_inv h rfl ho (hx.symm.trans ht)
  · cases hx.symm.trans ht
    exact h

/-- One header operation more still keeps it. -/
theorem andThen_inv {o : Outcome} {p : Phase} {i : Instr} {t : State} (hp : p.operation = some i)
    (ho : ∀ u, o = .next u → u.Inv) (h : andThen o p (exec i) = .next t) : t.Inv := by
  obtain ⟨u, hu, ⟨hup, hx⟩ | ⟨_, rfl⟩⟩ := andThen_next h
  · exact exec_operation_inv (ho u hu) hup hp hx
  · exact ho _ hu

theorem headerOperations_inv {s t : State} (h : s.Inv) (hp : s.phase = .hseek) (ht : headerOperations s = .next t) :
    t.Inv := by
  have hseek : ∀ u, execHseek s = .next u → u.Inv := fun u hu => exec_operation_inv h hp rfl hu
  have rdsig := fun u => andThen_inv (p := .rdsig) (t := u) rfl hseek
  have skipa := fun u => andThen_inv (p := .skipa) (t := u) rfl rdsig
  have rdoff := fun u => andThen_inv (p := .rdoff) (t := u) rfl skipa
  have skipb := fun u => andThen_inv (p := .skipb) (t := u) rfl rdoff
  have rdwid := fun u => andThen_inv (p := .rdwid) (t := u) rfl skipb
  have rdhgt := fun u => andThen_inv (p := .rdhgt) (t := u) rfl rdwid
  have rdpln := fun u => andThen_inv (p := .rdpln) (t := u) rfl rdhgt
  have rdbpp := fun u => andThen_inv (p := .rdbpp) (t := u) rfl rdpln
  exact andThen_inv (p := .rdcmp) rfl rdbpp ht

/-- The header operations as one run in `HSEEK` only, on the header the stream begins with (log 17). -/
theorem headerStep_eq (s : State) :
    (s.phase = .hseek ∧ headerStep s = headerOperations s) ∨ headerStep s = sequencerStep s := by
  by_cases hp : s.phase = .hseek
  · cases hd : decode (.header (slice 0 34 s.stream.bytes)) with
    | error e => exact .inr (by simp only [headerStep, hp, hd, if_true])
    | ok i =>
      obtain ⟨hl, _, rfl⟩ := (decodeHeader_ok_iff _ _).mp hd
      refine .inl ⟨hp, (headerStep_of_decode hp hd).trans ?_⟩
      exact congrArg headerOperations (placeHeader_self (Header.bytes_ofBytes hl).symm)
  · exact .inr (if_neg hp)

theorem headerStep_inv {s t : State} (h : s.Inv) (ht : headerStep s = .next t) : t.Inv := by
  rcases headerStep_eq s with ⟨hp, hx⟩ | hx
  · exact headerOperations_inv h hp (hx.symm.trans ht)
  · exact sequencerStep_inv h (hx.symm.trans ht)

/-- No operation comes before `HSEEK`. -/
theorem State.reached_hseek (s : State) : s.Reached .hseek := by
  intro q hq
  cases q with
  | idle => trivial
  | _ => exact absurd hq (by decide)

/-- R81: an accepted `START` leaves the invariant of `HSEEK`. -/
theorem beginLoad_inv {s : State} (h : FrameOk s.config s.frame) : (beginLoad s).Inv :=
  State.Going.inv
    { frameOk := h
      noError := ⟨rfl, rfl, rfl, rfl⟩
      count := fun _ => rfl
      published := fun _ => rfl
      shadow := fun _ hn => absurd rfl hn
      reached := State.reached_hseek _
      spot := ⟨rfl, rfl, fun _ hn => by cases hn; rfl⟩ }
    (show Phase.hseek ≠ .error by decide)

theorem execStart_inv {s t : State} (h : s.Inv) (ht : execStart s = .next t) : t.Inv := by
  unfold execStart at ht
  split at ht
  · cases ht
    exact beginLoad_inv h.frameOk
  · cases ht
    exact h.outside s.stream.bytes true s.trace s.inputs s.answer

theorem execFrd_inv {f : Nat} {s t : State} (h : s.Inv) (ht : execFrd f s = .next t) : t.Inv := by
  unfold execFrd at ht
  split at ht
  · obtain ⟨v, _, hk⟩ := loadFrame_cases ht
    cases hk
    exact h.outside s.stream.bytes s.cmdErr s.trace s.inputs (.bytes v)
  · cases ht
    exact h.outside s.stream.bytes true s.trace s.inputs .nothing

theorem hostWrite_inv {i : Nat} {w : Word} {s t : State} (h : s.Inv) (ht : hostWrite i w s = .next t) : t.Inv := by
  unfold hostWrite at ht
  split at ht
  · rcases commandWrite_cases w s with hx | ⟨f, _, hx⟩ | hx <;> rw [hx] at ht
    · exact execStart_inv h ht
    · exact execFrd_inv h ht
    · cases ht
      exact h.outside s.stream.bytes true s.trace s.inputs s.answer
  · cases ht
    exact h

theorem assertReset_inv {s : State} (h : s.Inv) : (assertReset s).Inv :=
  (inv_resetWith s.stream h.legal).outside s.stream.bytes false s.trace s.inputs s.answer

theorem nextEvent_inv {s t : State} (h : s.Inv) (ht : nextEvent s = .next t) : t.Inv := by
  have taken : ∀ rest, { s with inputs := rest }.Inv := fun rest =>
    h.outside s.stream.bytes s.cmdErr s.trace rest s.answer
  unfold nextEvent at ht
  split at ht
  case h_1 => exact sequencerStep_inv h ht
  case h_2 => exact sequencerStep_inv (taken _) ht
  case h_3 rest _ =>
    unfold waitStep at ht
    split at ht
    · exact sequencerStep_inv h ht
    · cases ht
      exact taken rest
  case h_4 => exact headerStep_inv (taken _) ht
  case h_5 => exact hostWrite_inv (taken _) ht
  case h_6 i rest _ =>
    cases ht
    exact (taken rest).outside s.stream.bytes s.cmdErr s.trace rest _
  case h_7 rest _ =>
    cases ht
    exact assertReset_inv (taken rest)
  case h_8 b rest _ =>
    cases ht
    exact (taken rest).outside b s.cmdErr s.trace rest s.answer

/-- Settles O53: whatever happens next, the operation, the command, reset or the new stream keeps the invariant. -/
theorem stepKeepsTheInvariant : Obligations.StepKeepsTheInvariant := by
  unfold Obligations.StepKeepsTheInvariant
  intro s t h hs
  exact nextEvent_inv h (step_next hs).2

/-- Settles O52: after reset nothing has completed and every counter is 0. -/
theorem invariantHoldsAtReset : Obligations.InvariantHoldsAtReset := by
  unfold Obligations.InvariantHoldsAtReset
  exact ⟨inv_resetWith _ (by decide), fun c a hc => inv_resetWith a hc⟩

end Sys2Proof.Machine
end

section
/-! SUPPORT. What the host sees of the state (spec/10_state.md R22 to R27), when the sequencer rests (R11), and which
instructions leave `FRAME` alone (R20). -/

namespace Sys2Proof.Machine

/-! ## The register map (R22, R26) -/

/-- Outside the table window a register is looked up in the map. -/
theorem readReg_eq_readRow (s : State) {i : Nat} (h : ¬(0x40 ≤ i ∧ i ≤ 0x7F)) : readReg s i = readRow s i := if_neg h

theorem readReg_window (s : State) {j : Nat} (h : j < 64) : readReg s (0x40 + j) = lutWindow s.config j := by
  rw [readReg, if_pos (by omega), Nat.add_sub_cancel_left]

/-- An index the map does not list reads 0. -/
theorem readRow_unlisted {s : State} {i : Nat} (h : ∀ r ∈ registerFile s, i ≠ r.1) : readRow s i = 0 := by
  have hl : (registerFile s).lookup i = none :=
    List.lookup_eq_none_iff.mpr fun r hr => bne_iff_ne.mpr (h r hr)
  rw [readRow, hl]
  rfl

/-- The indices below the table window that are not reserved (R26). -/
def listedIndices : List Nat := List.range 0x0D ++ List.range' 0x10 7 ++ List.range' 0x18 10

theorem registerFile_indices (s : State) : (registerFile s).map Prod.fst = listedIndices := rfl

theorem registerFile_index {s : State} {r : Nat × Word} (h : r ∈ registerFile s) :
    r.1 ≤ 0x0C ∨ (0x10 ≤ r.1 ∧ r.1 ≤ 0x16) ∨ (0x18 ≤ r.1 ∧ r.1 ≤ 0x21) := by
  have hm : r.1 ∈ (registerFile s).map Prod.fst := List.mem_map_of_mem h
  simp only [registerFile_indices, listedIndices, List.mem_append, List.mem_range, List.mem_range'_1] at hm
  omega

theorem readReg_reserved (s : State) {i : Nat}
    (h : (0x0D ≤ i ∧ i ≤ 0x0F) ∨ i = 0x17 ∨ (0x22 ≤ i ∧ i ≤ 0x3F) ∨ 0x80 ≤ i) : readReg s i = 0 := by
  rw [readReg_eq_readRow s (by omega)]
  refine readRow_unlisted fun r hr => ?_
  have := registerFile_index hr
  omega

/-- A write to any index but 0 only takes the input. -/
theorem step_write_ignored {s : State} {i : Nat} (w : Word) (rest : List Input) (hl : s.config.legal = true)
    (hi : i ≠ 0) : step { s with inputs := .write i w :: rest } = .next { s with inputs := rest } :=
  (step_input _ _ hl).trans (if_neg hi)

/-- Settles O14, by the indices the map lists and by what a write does. -/
theorem reservedRegistersReadZeroAndIgnoreWrites : Obligations.ReservedRegistersReadZeroAndIgnoreWrites := by
  unfold Obligations.ReservedRegistersReadZeroAndIgnoreWrites
  intro s i w rest hl
  exact ⟨readReg_reserved s, step_write_ignored w rest hl⟩

/-- Settles O13: the rows of the map, the 16-bit latches extended and the 64-bit registers put together again. -/
theorem registerMapContents : Obligations.RegisterMapContents := by
  unfold Obligations.RegisterMapContents
  intro s
  refine ⟨rfl, ?code, rfl, rfl, ?pos, rfl, rfl, rfl, rfl, rfl, ?sig, rfl, rfl, rfl, ?planes, ?depth, rfl, rfl, ?stride,
    rfl, rfl, rfl, rfl, rfl, ?spos⟩
  case code => exact BitVec.ofNat_toNat _ _
  case sig | planes | depth => exact zext32_eq_setWidth _
  case pos | stride | spos => exact hiWord_append_loWord _

/-- Settles O15: the read is the whole step. -/
theorem registerReadHasNoSideEffect : Obligations.RegisterReadHasNoSideEffect := by
  unfold Obligations.RegisterReadHasNoSideEffect
  intro s i rest hl
  exact step_input _ _ hl

/-! ## The table window (R25) -/

theorem lutAt_ofNat (c : Config) {n : Nat} (h : n < 256) : lutAt c (BitVec.ofNat 8 n) = c.lut[n] := by
  have hn : (BitVec.ofNat 8 n).toNat = n := by
    rw [BitVec.toNat_ofNat]
    exact Nat.mod_eq_of_lt h
  simp only [lutAt, hn]

/-- Settles O12: the window index gives four table indices below 256, the lowest in the lowest byte. -/
theorem tableWindowShowsFourEntries : Obligations.TableWindowShowsFourEntries := by
  unfold Obligations.TableWindowShowsFourEntries
  intro s j
  rw [readReg_window s j.isLt, lutWindow, le32_eq_append, lutAt_ofNat _ (by omega), lutAt_ofNat _ (by omega),
    lutAt_ofNat _ (by omega), lutAt_ofNat _ (by omega)]

/-! ## STATUS and CFG_FLAGS as concatenations (R23, R24) -/

theorem bit_eq_true_iff (o : RowOrder) : o.bit = true ↔ o = .bottomUp := by
  cases o <;> simp [RowOrder.bit]

theorem flagAt_eq (n : Nat) (b : Bool) : flagAt n b = b.toNat * 2 ^ n := by
  cases b <;> simp [flagAt]

theorem toNat_append_eq_add {m n : Nat} (x : BitVec m) (y : BitVec n) : (x ++ y).toNat = x.toNat * 2 ^ n + y.toNat := by
  rw [BitVec.toNat_append, ← Nat.shiftLeft_add_eq_or_of_lt y.isLt, Nat.shiftLeft_eq]

/-- `STATUS` from its highest field to its lowest. -/
theorem statusWord_eq_append (s : State) :
    statusWord s = 0#19 ++ BitVec.ofBool s.cmdErr ++ BitVec.ofBool s.rowOrder.bit ++ BitVec.ofBool (isError s.phase)
      ++ BitVec.ofBool (isDone s.phase) ++ BitVec.ofBool (isBusy s.phase) ++ 0#3 ++ s.phase.code := by
  apply BitVec.eq_of_toNat_eq
  have hcode := s.phase.code.isLt
  have hbool : ∀ b : Bool, b.toNat ≤ 1 := Bool.toNat_le
  have := hbool s.cmdErr
  have := hbool s.rowOrder.bit
  have := hbool (isError s.phase)
  have := hbool (isDone s.phase)
  have := hbool (isBusy s.phase)
  simp only [statusWord, flagAt_eq, toNat_append_eq_add, BitVec.toNat_ofBool, BitVec.toNat_ofNat]
  omega

theorem channelCode_lt (c : Channel) : channelCode c < 3 := by
  cases c <;> decide

/-- `CFG_FLAGS` from its highest field to its lowest. -/
theorem cfgFlagsWord_eq_append (c : Config) :
    cfgFlagsWord c = 0#18 ++ BitVec.ofNat 2 (channelCode c.order.slot2) ++ BitVec.ofNat 2 (channelCode c.order.slot1)
      ++ BitVec.ofNat 2 (channelCode c.order.slot0) ++ 0#7 ++ BitVec.ofBool c.loop := by
  apply BitVec.eq_of_toNat_eq
  have := channelCode_lt c.order.slot0
  have := channelCode_lt c.order.slot1
  have := channelCode_lt c.order.slot2
  have := Bool.toNat_le c.loop
  simp only [cfgFlagsWord, flagAt_eq, toNat_append_eq_add, BitVec.toNat_ofBool, BitVec.toNat_ofNat]
  omega

/-- Settles O10: each field of the concatenation is read at its place. -/
theorem statusRegisterFields : Obligations.StatusRegisterFields := by
  unfold Obligations.StatusRegisterFields
  intro s
  have hw : readReg s 0x01 = statusWord s := rfl
  rw [hw, statusWord_eq_append]
  refine ⟨BitVec.extractLsb'_append_eq_right, ?reserved, ?busy, ?done, ?error, ?rowOrder, ?cmdErr, ?high⟩
  case reserved => exact (BitVec.extractLsb'_append_eq_of_le (by decide)).trans BitVec.extractLsb'_append_eq_right
  case busy | done | error | rowOrder | cmdErr =>
    simp only [BitVec.getLsbD_append, BitVec.getLsbD_ofBool]
    simp [isBusy_iff, isDone, isError, bit_eq_true_iff]
  case high =>
    simp (disch := decide) only [BitVec.extractLsb'_append_eq_of_le]
    rfl

/-- Settles O11: each field of the concatenation is read at its place. -/
theorem configurationFlagsFields : Obligations.ConfigurationFlagsFields := by
  unfold Obligations.ConfigurationFlagsFields
  intro s
  have hw : readReg s 0x09 = cfgFlagsWord s.config := rfl
  have hcode : ∀ c : Channel, BitVec.ofNat 2 (channelCode c) =
      (match c with | .blue => 0#2 | .green => 1#2 | .red => 2#2) := by
    intro c
    cases c <;> rfl
  rw [hw, cfgFlagsWord_eq_append]
  refine ⟨?loop, ?reserved, ?slot0, ?slot1, ?slot2, ?high⟩
  case loop =>
    simp only [BitVec.getLsbD_append, BitVec.getLsbD_ofBool]
    simp
  case reserved => exact (BitVec.extractLsb'_append_eq_of_le (by decide)).trans BitVec.extractLsb'_append_eq_right
  case slot0 | slot1 | slot2 =>
    simp (disch := decide) only [BitVec.extractLsb'_append_eq_of_le]
    exact BitVec.extractLsb'_append_eq_right.trans (hcode _)
  case high =>
    simp (disch := decide) only [BitVec.extractLsb'_append_eq_of_le]
    rfl

/-! ## The sequencer at rest (R11, R140) -/

/-- Settles O46: no phase at rest names an operation, and a wait is over. -/
theorem restingStatesHaveNoSequencerStep : Obligations.RestingStatesHaveNoSequencerStep := by
  unfold Obligations.RestingStatesHaveNoSequencerStep
  intro s rest hl hp
  have hb : isBusy s.phase = false := by rcases hp with hp | hp | hp <;> rw [hp] <;> rfl
  have hw : waitStep { s with inputs := .wait :: rest } rest = .next { s with inputs := rest } :=
    if_neg (by simp [hb])
  exact ⟨fun hi => step_resting hl hi hb,
    (step_input _ _ hl).trans (sequencerStep_rest (s := { s with inputs := rest }) hb),
    (step_input _ _ hl).trans hw⟩

/-! ## The instructions that leave `FRAME` alone (R20) -/

theorem seekThen_frame {p : Pos} {k : State → Outcome} {s t : State} (h : seekThen p k s = .next t)
    (hk : ∀ u, u.frame = s.frame → k u = .next t → t.frame = s.frame) : t.frame = s.frame := by
  rcases seekThen_next h with ⟨e, _, rfl⟩ | ⟨_, h⟩
  · rfl
  · exact hk _ (by rfl) h

theorem readThen_frame {n : Nat} {k : List Byte → State → Outcome} {s t : State} (h : readThen n k s = .next t)
    (hk : ∀ b u, u.frame = s.frame → k b u = .next t → t.frame = s.frame) : t.frame = s.frame := by
  rcases readThen_answers h with ⟨c, io, p, _, rfl⟩ | ⟨_, _, _, h⟩
  · rfl
  · exact hk _ _ (by rfl) h

theorem checkThen_frame {ok : Bool} {c : Cause} {v : Word} {p : Phase} {s t : State}
    (h : checkThen ok c v p s = .next t) : t.frame = s.frame := by
  rcases checkThen_next h with ⟨_, rfl⟩ | ⟨_, rfl⟩ <;> rfl

theorem goto_frame {p : Phase} {s t : State} (h : goto p s = .next t) : t.frame = s.frame := by
  cases h
  rfl

theorem raiseCheck_frame {c : Cause} {v : Word} {s t : State} (h : raiseCheck c v s = .next t) : t.frame = s.frame := by
  cases h
  rfl

theorem execStart_frame {s t : State} (h : execStart s = .next t) : t.frame = s.frame := by
  unfold execStart at h
  split at h <;> (cases h; rfl)

theorem execFrd_frame {f : Nat} {s t : State} (h : execFrd f s = .next t) : t.frame = s.frame := by
  unfold execFrd at h
  split at h
  · obtain ⟨v, _, hk⟩ := loadFrame_cases h
    cases hk
    rfl
  · cases h
    rfl

/-- Of the operations of the sequencer only `FCLEAR`, `PIXST` and `BLANK` store to `FRAME`. -/
theorem exec_operation_frame {i : Instr} {s t : State} (h : exec i s = .next t) (hstart : i ≠ .start)
    (hfrd : ∀ f, i ≠ .frd f) (hbmp24 : ∀ hd, i ≠ .bmp24 hd) (hfclear : i ≠ .fclear) (hpixst : i ≠ .pixst)
    (hblank : i ≠ .blank) : t.frame = s.frame := by
  cases i with
  | start => exact absurd rfl hstart
  | frd f => exact absurd rfl (hfrd f)
  | bmp24 hd => exact absurd rfl (hbmp24 hd)
  | fclear => exact absurd rfl hfclear
  | pixst => exact absurd rfl hpixst
  | blank => exact absurd rfl hblank
  | hseek | rowseek => exact seekThen_frame h fun _ hu hk => (goto_frame hk).trans hu
  | rdsig | rdpln | rdbpp | rdcmp => exact readThen_frame h fun _ _ hu hk => (checkThen_frame hk).trans hu
  | skipa | skipb | rdoff | rdwid | rdhgt | pixrd => exact readThen_frame h fun _ _ hu hk => (goto_frame hk).trans hu
  | stride =>
    simp only [exec, execStride] at h
    split at h
    · exact raiseCheck_frame h
    · exact (goto_frame h).trans rfl
  | clip =>
    simp only [exec, execClip] at h
    split at h
    · exact (raiseCheck_frame h).trans rfl
    · exact (goto_frame h).trans rfl
  | roword | gamma | reord | rowend | finish => exact (goto_frame h).trans rfl

/-- None of the three is a header operation. -/
theorem exec_headerOperation_frame {p : Phase} {i : Instr} {s t : State} (ho : p.operation = some i)
    (hr : p.rank ≤ 10) (h : exec i s = .next t) : t.frame = s.frame := by
  obtain ⟨hstart, hfrd, hbmp24⟩ := operation_ne ho
  have hf := exec_operation_frame h hstart hfrd hbmp24
  cases p with
  | fclear | pixst | blank => exact absurd hr (by decide)
  | _ => cases ho <;> exact hf (by decide) (by decide) (by decide)

theorem andThen_frame {o : Outcome} {p : Phase} {i : Instr} {s t : State} (hp : p.operation = some i)
    (hr : p.rank ≤ 10) (ho : ∀ u, o = .next u → u.frame = s.frame) (h : andThen o p (exec i) = .next t) :
    t.frame = s.frame := by
  obtain ⟨u, hu, ⟨_, hx⟩ | ⟨_, rfl⟩⟩ := andThen_next h
  · exact (exec_headerOperation_frame hp hr hx).trans (ho u hu)
  · exact ho _ hu

theorem execBmp24_frame {hd : Header} {s t : State} (h : execBmp24 hd s = .next t) : t.frame = s.frame := by
  have hseek : ∀ u, execHseek (placeHeader hd s) = .next u → u.frame = s.frame := fun u hu =>
    exec_headerOperation_frame (p := .hseek) (s := placeHeader hd s) rfl (by decide) hu
  have rdsig := fun u => andThen_frame (p := .rdsig) (t := u) rfl (by decide) hseek
  have skipa := fun u => andThen_frame (p := .skipa) (t := u) rfl (by decide) rdsig
  have rdoff := fun u => andThen_frame (p := .rdoff) (t := u) rfl (by decide) skipa
  have skipb := fun u => andThen_frame (p := .skipb) (t := u) rfl (by decide) rdoff
  have rdwid := fun u => andThen_frame (p := .rdwid) (t := u) rfl (by decide) skipb
  have rdhgt := fun u => andThen_frame (p := .rdhgt) (t := u) rfl (by decide) rdwid
  have rdpln := fun u => andThen_frame (p := .rdpln) (t := u) rfl (by decide) rdhgt
  have rdbpp := fun u => andThen_frame (p := .rdbpp) (t := u) rfl (by decide) rdpln
  exact andThen_frame (p := .rdcmp) rfl (by decide) rdbpp h

/-- Of all instructions only `FCLEAR`, `PIXST` and `BLANK` store to `FRAME`. -/
theorem exec_frame {i : Instr} {s t : State} (h : exec i s = .next t) (hfclear : i ≠ .fclear) (hpixst : i ≠ .pixst)
    (hblank : i ≠ .blank) : t.frame = s.frame := by
  cases i with
  | start => exact execStart_frame h
  | frd f => exact execFrd_frame h
  | bmp24 hd => exact execBmp24_frame h
  | _ => exact exec_operation_frame h (by simp) (by simp) (by simp) hfclear hpixst hblank

/-- Settles O48, instruction by instruction. -/
theorem onlyThreeOperationsWriteFrame : Obligations.OnlyThreeOperationsWriteFrame := by
  unfold Obligations.OnlyThreeOperationsWriteFrame
  intro i s t h hfclear hpixst hblank a
  exact congrArg (Memory.read · a) (exec_frame h hfclear hpixst hblank)

end Sys2Proof.Machine
end

section
/-! SUPPORT. No step from the invariant stops (spec/20_memory.md R49, spec/60_exceptions.md R147): every address a
meaning stores to lies in `FRAME`, and every byte an accepted `FRD` reads has been written. -/

namespace Sys2Proof.Machine

/-! ## The addresses of FRAME (R48, R49) -/

/-- A frame below `MAX_FRAMES` lies in `FRAME` whole. -/
theorem frame_inRange {c : Config} {f : Nat} (h : f < c.maxFrames.toNat) :
    f * frameLength c + frameLength c ≤ frameBytes c :=
  (Nat.succ_mul f (frameLength c)).symm.trans_le (frames_inRange h)

section
variable {s : State}

/-- `CLIP` has bounded the image's frames and rows (R108, R110). -/
theorem State.Reached.clip_bounds (h : s.Reached .fclear) :
    s.width.toNat + blankFrames s.config ≤ s.config.maxFrames.toNat ∧
      s.clipH.toNat ≤ s.config.stripLength.toNat := by
  obtain ⟨hclip, htotal, hmax⟩ := h .clip (by decide)
  exact ⟨htotal ▸ hmax, hclip.trans_le (Nat.min_le_right _ _)⟩

/-- `FCLEAR` stores inside `FRAME`. -/
theorem fclear_inRange (h : s.Reached .fclear) :
    0 + (zeros (s.width.toNat * frameLength s.config)).length ≤ frameBytes s.config := by
  rw [zeros_length, Nat.zero_add]
  exact frames_inRange (le_trans (Nat.le_add_right _ _) h.clip_bounds.1)

/-- `PIXST` stores inside `FRAME`. -/
theorem pixst_inRange (h : s.Reached .fclear) (hrow : s.row.toNat < s.clipH.toNat)
    (hcol : s.col.toNat < s.width.toNat) : pixelAddress s + s.out.bytes.length ≤ frameBytes s.config := by
  obtain ⟨hframes, hrows⟩ := h.clip_bounds
  exact pixel_inRange (by omega) (by unfold stripPosition; omega)

/-- `BLANK` stores inside `FRAME`: without looping a frame stands behind the image. -/
theorem blank_inRange (h : s.Reached .fclear) (hl : ¬s.config.loop = true) :
    s.width.toNat * frameLength s.config + (zeros (frameLength s.config)).length ≤ frameBytes s.config := by
  have hframes := h.clip_bounds.1
  rw [blankFrames, if_neg hl] at hframes
  rw [zeros_length]
  exact frame_inRange hframes

/-- Every byte of a published frame lies in `FRAME` and has been written (R82, R139 c). -/
theorem State.Inv.published_readable (h : s.Inv) (hp : s.phase = .done) {f : Nat} (hf : f < s.frameCount.toNat) :
    f * frameLength s.config + frameLength s.config ≤ frameBytes s.config ∧
    ∀ i, i < frameLength s.config → ∃ b, s.frame.read (f * frameLength s.config + i) = some b := by
  have past : ∀ n, n < 30 → s.phase.past n := fun n hn => hp ▸ ⟨hn, by decide⟩
  obtain ⟨_, htotal, hmax⟩ := h.clipSet (past 13 (by decide))
  rw [h.countPublished hp] at hf
  refine ⟨frame_inRange (hf.trans_le hmax), fun i hi => ?_⟩
  by_cases hw : f < s.width.toNat
  · refine h.imageFilled (past 14 (by decide)) _ (lt_of_lt_of_le ?_ (Nat.mul_le_mul_right _ hw))
    rw [Nat.succ_mul]
    omega
  · have hb : f < s.width.toNat + blankFrames s.config := hf.trans_eq htotal
    cases hl : s.config.loop with
    | true =>
      rw [blankFrames, if_pos hl] at hb
      omega
    | false =>
      rw [blankFrames, if_neg (by simp [hl])] at hb
      obtain rfl : f = s.width.toNat := by omega
      exact ⟨0, h.blankZero (past 21 (by decide)) hl i hi⟩

end

/-! ## Every operation answers a next state -/

theorem LeadsTo.goesOn {k : State → Outcome} {q : Phase} (h : LeadsTo k q) (s : State) : ∃ t, k s = .next t :=
  let ⟨t, ht, _⟩ := h s
  ⟨t, ht⟩

theorem execFclear_goesOn {s : State} (h : s.Going .fclear) : ∃ t, execFclear s = .next t :=
  ⟨_, storeFrame_inRange _ (fclear_inRange h.reached)⟩

theorem execPixst_goesOn {s : State} (h : s.Going .pixst) : ∃ t, execPixst s = .next t := by
  obtain ⟨hrow, hcol, _⟩ := h.spot
  exact ⟨_, storeFrame_inRange _ (pixst_inRange (fun q hq => h.reached q (hq.trans (by decide))) hrow hcol)⟩

theorem execBlank_goesOn {s : State} (h : s.Going .blank) : ∃ t, execBlank s = .next t := by
  unfold execBlank
  split
  · exact ⟨_, rfl⟩
  · rename_i hl
    exact ⟨_, storeFrame_inRange _ (blank_inRange (fun q hq => h.reached q (hq.trans (by decide))) hl)⟩

theorem execStride_goesOn (s : State) : ∃ t, execStride s = .next t := by
  unfold execStride
  split <;> exact ⟨_, rfl⟩

theorem execClip_goesOn (s : State) : ∃ t, execClip s = .next t := by
  unfold execClip
  split <;> exact ⟨_, rfl⟩

/-- A header operation answers a next state, whatever the stream agent answers. -/
theorem exec_headerOperation_goesOn {p : Phase} {i : Instr} (ho : p.operation = some i) (hp : p.rank ≤ 10) (s : State) :
    ∃ t, exec i s = .next t := by
  cases p with
  | idle => cases ho
  | hseek => cases ho; exact execHseek_leadsTo.goesOn s
  | rdsig => cases ho; exact execRdsig_leadsTo.goesOn s
  | skipa => cases ho; exact execSkipa_leadsTo.goesOn s
  | rdoff => cases ho; exact execRdoff_leadsTo.goesOn s
  | skipb => cases ho; exact execSkipb_leadsTo.goesOn s
  | rdwid => cases ho; exact execRdwid_leadsTo.goesOn s
  | rdhgt => cases ho; exact execRdhgt_leadsTo.goesOn s
  | rdpln => cases ho; exact execRdpln_leadsTo.goesOn s
  | rdbpp => cases ho; exact execRdbpp_leadsTo.goesOn s
  | rdcmp => cases ho; exact execRdcmp_leadsTo.goesOn s
  | _ => exact absurd hp (by decide)

theorem execRowseek_goesOn (s : State) : ∃ t, execRowseek s = .next t := by
  unfold execRowseek
  rcases seekThen_cases (s := s) (BitVec.ofNat 64 (seekTarget s)) beginRow with ⟨e, _, hx⟩ | ⟨_, hx⟩ <;>
    exact ⟨_, hx⟩

theorem execPixrd_leadsTo : LeadsTo execPixrd .gamma := readThen_leadsTo fun _ _ => goto_leadsTo _ _

/-- Every operation of the sequencer answers a next state. -/
theorem exec_operation_goesOn {p : Phase} {i : Instr} {s : State} (h : s.Inv) (hp : s.phase = p)
    (ho : p.operation = some i) : ∃ t, exec i s = .next t := by
  have hg := h.going hp (isBusy_of_operation ho)
  by_cases hr : p.rank ≤ 10
  · exact exec_headerOperation_goesOn ho hr s
  · cases p with
    | roword | gamma | reord | rowend | finish => cases ho; exact ⟨_, rfl⟩
    | stride => cases ho; exact execStride_goesOn s
    | clip => cases ho; exact execClip_goesOn s
    | fclear => cases ho; exact execFclear_goesOn hg
    | rowseek => cases ho; exact execRowseek_goesOn s
    | pixrd => cases ho; exact execPixrd_leadsTo.goesOn s
    | pixst => cases ho; exact execPixst_goesOn hg
    | blank => cases ho; exact execBlank_goesOn hg
    | done | error => cases ho
    | _ => exact absurd (by decide) hr

theorem sequencerStep_goesOn {s : State} (h : s.Inv) : ∃ t, sequencerStep s = .next t := by
  rcases sequencerStep_cases s with ⟨i, ho, hx⟩ | ⟨_, hx⟩
  · rw [hx]
    exact exec_operation_goesOn h rfl ho
  · exact ⟨s, hx⟩

/-- One operation more in a sequence that has gone on. -/
theorem andThen_goesOn {o : Outcome} {p q : Phase} {k : State → Outcome} (hk : LeadsTo k q) (ho : ∃ u, o = .next u) :
    ∃ t, andThen o p k = .next t := by
  obtain ⟨u, rfl⟩ := ho
  by_cases hp : u.phase = p
  · rw [andThen_of rfl hp]
    exact hk.goesOn u
  · exact ⟨u, andThen_skip rfl hp⟩

theorem headerOperations_goesOn (s : State) : ∃ t, headerOperations s = .next t := by
  have rdsig := andThen_goesOn (p := .rdsig) execRdsig_leadsTo (execHseek_leadsTo.goesOn s)
  have skipa := andThen_goesOn (p := .skipa) execSkipa_leadsTo rdsig
  have rdoff := andThen_goesOn (p := .rdoff) execRdoff_leadsTo skipa
  have skipb := andThen_goesOn (p := .skipb) execSkipb_leadsTo rdoff
  have rdwid := andThen_goesOn (p := .rdwid) execRdwid_leadsTo skipb
  have rdhgt := andThen_goesOn (p := .rdhgt) execRdhgt_leadsTo rdwid
  have rdpln := andThen_goesOn (p := .rdpln) execRdpln_leadsTo rdhgt
  have rdbpp := andThen_goesOn (p := .rdbpp) execRdbpp_leadsTo rdpln
  exact andThen_goesOn execRdcmp_leadsTo rdbpp

theorem headerStep_goesOn {s : State} (h : s.Inv) : ∃ t, headerStep s = .next t := by
  rcases headerStep_eq s with ⟨_, hx⟩ | hx <;> rw [hx]
  · exact headerOperations_goesOn s
  · exact sequencerStep_goesOn h

/-! ## Every turn answers a next state -/

theorem execStart_goesOn (s : State) : ∃ t, execStart s = .next t := by
  unfold execStart
  split <;> exact ⟨_, rfl⟩

theorem execFrd_goesOn {s : State} (h : s.Inv) (f : Nat) : ∃ t, execFrd f s = .next t := by
  unfold execFrd
  split
  · rename_i hc
    obtain ⟨hp, hf⟩ := hc
    obtain ⟨hr, hb⟩ := h.published_readable hp hf
    obtain ⟨v, _, _, hx⟩ := loadFrame_filled (fun v t => .next { t with answer := .bytes v }) hr hb
    exact ⟨_, hx⟩
  · exact ⟨_, rfl⟩

theorem hostWrite_goesOn {s : State} (h : s.Inv) (i : Nat) (w : Word) : ∃ t, hostWrite i w s = .next t := by
  unfold hostWrite
  split
  · rcases commandWrite_cases w s with hx | ⟨f, _, hx⟩ | hx <;> rw [hx]
    · exact execStart_goesOn s
    · exact execFrd_goesOn h f
    · exact ⟨_, rfl⟩
  · exact ⟨s, rfl⟩

theorem waitStep_goesOn {s : State} (h : s.Inv) (rest : List Input) : ∃ t, waitStep s rest = .next t := by
  unfold waitStep
  split
  · exact sequencerStep_goesOn h
  · exact ⟨_, rfl⟩

theorem nextEvent_goesOn {s : State} (h : s.Inv) : ∃ t, nextEvent s = .next t := by
  have taken : ∀ rest, { s with inputs := rest }.Inv := fun rest =>
    h.outside s.stream.bytes s.cmdErr s.trace rest s.answer
  unfold nextEvent
  split
  case h_1 => exact sequencerStep_goesOn h
  case h_2 => exact sequencerStep_goesOn (taken _)
  case h_3 => exact waitStep_goesOn h _
  case h_4 => exact headerStep_goesOn (taken _)
  case h_5 => exact hostWrite_goesOn (taken _) _ _
  case h_6 | h_7 | h_8 => exact ⟨_, rfl⟩

/-- Settles O54: the configuration is legal, and no turn faults. -/
theorem stepFromTheInvariantGoesOn : Obligations.StepFromTheInvariantGoesOn := by
  unfold Obligations.StepFromTheInvariantGoesOn
  intro s h
  rw [step_legal h.legal]
  exact nextEvent_goesOn h

end Sys2Proof.Machine
end

section
/-! SUPPORT. The ten requests of a header (spec/20_memory.md R57): where they all pass, the header is latched whole, and
where one errs, the load ends there (R44, spec/60_exceptions.md R151 c). -/

namespace Sys2Proof.Machine

/-! ## A header request (R57) -/

/-- The position a request is about. -/
def Request.position : Request → Pos
  | .seek p => p
  | .read _ p => p

/-- `n` requests of the header have been answered and the stream stands at `pos`. -/
def State.inHeader (n pos : Nat) (s : State) : State :=
  { s with
    spos := BitVec.ofNat 64 pos
    stream := { s.stream with pos := BitVec.ofNat 64 pos, script := s.stream.script.drop n }
    trace := s.trace ++ headerTrace.take n }

/-- In phase `p`, `n` requests of the header `h` have been answered: the latches of their operations hold its fields. -/
def State.latched (h : Header) (n : Nat) (p : Phase) (s : State) : State :=
  { s with
    phase := p
    sig := if 2 ≤ n then h.sig else s.sig
    dataOffset := if 4 ≤ n then h.dataOffset else s.dataOffset
    widthRaw := if 6 ≤ n then h.width else s.widthRaw
    heightRaw := if 7 ≤ n then h.height else s.heightRaw
    planes := if 8 ≤ n then h.planes else s.planes
    bitDepth := if 9 ≤ n then h.bitDepth else s.bitDepth
    compression := if 10 ≤ n then h.compression else s.compression }

/-- The oracle's first erring answer from `s` on is `e`, to request `j` (R44). -/
def State.FirstErr (s : State) (j : Nat) (e : ErrAnswer) : Prop :=
  (∀ i, i < j → s.stream.script[i]?.join = none) ∧ s.stream.script[j]?.join = some e

/-- Request `j` of a header read from `s` on has erred with `e`, and the load has ended there (R44, R148, R152). -/
structure State.ErredAt (s : State) (j : Nat) (e : ErrAnswer) (t : State) : Prop where
  phase : t.phase = .error
  errCode : t.errCode = ioErrCode s.config e.code
  errIo : t.errIo = e.code
  errValue : t.errValue = 0
  errPos : headerTrace[j]?.map Request.position = some t.errPos
  frameCount : t.frameCount = 0
  frame : t.frame = s.frame
  trace : t.trace = s.trace ++ headerTrace.take (j + 1)

section
variable {s : State} {n pos : Nat}

theorem inHeader_requestPasses (h : s.stream.script[n]?.join = none) : (s.inHeader n pos).requestPasses :=
  (congrArg Option.join List.head?_drop).trans h

theorem inHeader_requestErrs {e : ErrAnswer} (h : s.stream.script[n]?.join = some e) :
    (s.inHeader n pos).requestErrs e :=
  (congrArg Option.join List.head?_drop).trans h

theorem headerTrace_take_succ {r : Request} (hr : headerTrace[n]? = some r) :
    headerTrace.take (n + 1) = headerTrace.take n ++ [r] := by
  rw [List.take_add_one, hr, Option.toList_some]

/-- One read more has been served. -/
theorem inHeader_served {m : Nat} (hr : headerTrace[n]? = some (.read m (BitVec.ofNat 64 pos))) :
    (s.inHeader n pos).served m = s.inHeader (n + 1) (pos + m) := by
  simp only [State.served, State.afterRequest, State.inHeader, List.tail_drop, headerTrace_take_succ hr,
    List.append_assoc, BitVec.ofNat_add]

/-- A read of the header that the oracle lets pass. -/
theorem headerRead_passes {m : Nat} (k : List Byte → State → Outcome)
    (hr : headerTrace[n]? = some (.read m (BitVec.ofNat 64 pos))) (hp : s.stream.script[n]?.join = none)
    (hm : pos + m ≤ 34) (hl : 34 ≤ s.stream.bytes.length) :
    readThen m k (s.inHeader n pos) = k (slice pos m s.stream.bytes) (s.inHeader (n + 1) (pos + m)) := by
  have hpos : (BitVec.ofNat 64 pos).toNat = pos := by
    rw [BitVec.toNat_ofNat]
    omega
  have hs : ¬(s.inHeader n pos).shortOf m := by
    show ¬s.stream.bytes.length < (BitVec.ofNat 64 pos).toNat + m
    omega
  rw [readThen_serves m k (inHeader_requestPasses hp) hs, inHeader_served hr]
  exact congrArg (fun p => k (slice p m s.stream.bytes) _) hpos

/-- A read of the header that errs ends the load. -/
theorem headerRead_errs {m : Nat} {e : ErrAnswer} (k : List Byte → State → Outcome)
    (hr : headerTrace[n]? = some (.read m (BitVec.ofNat 64 pos))) (he : s.stream.script[n]?.join = some e) :
    ∃ t, readThen m k (s.inHeader n pos) = .next t ∧ s.ErredAt n e t := by
  refine ⟨_, readThen_errs m k (inHeader_requestErrs he), ?_⟩
  have htrace : s.trace ++ headerTrace.take n ++ [.read m (BitVec.ofNat 64 pos)] =
      s.trace ++ headerTrace.take (n + 1) := by
    rw [headerTrace_take_succ hr, List.append_assoc]
  exact ⟨rfl, rfl, rfl, rfl, congrArg (Option.map Request.position) hr, rfl, rfl, htrace⟩

end

/-! ## The header operations in order (R75 `HDR`) -/

/-- The operations of the header's first `n` requests, from `s` on, come out as `o`: where the requests pass, in phase
`p` with what they carry latched and the stream at `pos`; where one errs, in the trap of the first that does. -/
structure HeaderRun (h : Header) (s : State) (n pos : Nat) (p : Phase) (o : Outcome) : Prop where
  passes : (∀ i, i < n → s.stream.script[i]?.join = none) → o = .next ((s.latched h n p).inHeader n pos)
  errs : ∀ j e, j < n → s.FirstErr j e → ∃ t, o = .next t ∧ s.ErredAt j e t

/-- The seek to the header. -/
theorem headerRun_hseek (h : Header) (s : State) : HeaderRun h s 1 0 .rdsig (execHseek s) where
  passes hp := by
    have h0 : s.requestPasses := (congrArg Option.join List.head?_eq_getElem?).trans (hp 0 Nat.zero_lt_one)
    rw [execHseek, seekThen_passes 0 _ h0]
    simp only [goto, State.afterRequest, State.inHeader, State.latched, List.drop_one]
    rfl
  errs j e hj he := by
    obtain rfl : j = 0 := Nat.lt_one_iff.mp hj
    have h0 : s.requestErrs e := (congrArg Option.join List.head?_eq_getElem?).trans he.2
    exact ⟨_, seekThen_errs 0 _ h0, rfl, rfl, rfl, rfl, rfl, rfl, rfl, rfl⟩

/-- One operation more: it reads the next `m` bytes and goes on with `k`. -/
theorem HeaderRun.read {h : Header} {s : State} {n pos m : Nat} {p q : Phase} {o : Outcome}
    {k : List Byte → State → Outcome} (hrun : HeaderRun h s n pos p o)
    (hr : headerTrace[n]? = some (.read m (BitVec.ofNat 64 pos))) (hm : pos + m ≤ 34) (hp : p ≠ .error)
    (hl : 34 ≤ s.stream.bytes.length)
    (hk : k (slice pos m s.stream.bytes) ((s.latched h n p).inHeader (n + 1) (pos + m)) =
      .next ((s.latched h (n + 1) q).inHeader (n + 1) (pos + m))) :
    HeaderRun h s (n + 1) (pos + m) q (andThen o p (readThen m k)) where
  passes hpass := by
    rw [andThen_of (p := p) (hrun.passes fun i hi => hpass i (hi.trans n.lt_succ_self)) rfl]
    exact (headerRead_passes (s := s.latched h n p) k hr (hpass n n.lt_succ_self) hm hl).trans hk
  errs j e hj he := by
    rcases Nat.lt_succ_iff_lt_or_eq.mp hj with hlt | rfl
    · obtain ⟨t, rfl, ht⟩ := hrun.errs j e hlt he
      exact ⟨t, andThen_skip rfl (ht.phase.trans_ne hp.symm), ht⟩
    · rw [andThen_of (p := p) (hrun.passes he.1) rfl]
      obtain ⟨t, hx, ht⟩ := headerRead_errs (s := s.latched h j p) k hr he.2
      exact ⟨t, hx, { ht with }⟩

/-- The ten header operations on a stream that begins with an accepted header. -/
theorem headerRun_headerOperations {h : Header} {s : State} {r : List Byte} (ha : h.accepted = true)
    (hb : s.stream.bytes = h.bytes ++ r) : HeaderRun h s 10 34 .roword (headerOperations s) := by
  obtain ⟨hsig, hplanes, hdepth, hcomp⟩ := h.accepted_iff.mp ha
  obtain ⟨e0, e2, e6, e10, e14, e18, e22, e26, e28, e30⟩ := h.slices r
  have hl : 34 ≤ s.stream.bytes.length := by
    rw [hb, List.length_append, h.bytes_length]
    omega
  have hseek := headerRun_hseek h s
  have rdsig := hseek.read (k := latchSignature) (m := 2) (q := .skipa) rfl (by decide) (by decide) hl <| by
    have hok : ((leBytes 2 h.sig.toNat).getD 0 0 == 0x42 && (leBytes 2 h.sig.toNat).getD 1 0 == 0x4D) = true := by
      rw [hsig]
      rfl
    rw [hb, e0, latchSignature, le16_leBytes, hok]
    rfl
  have skipa := rdsig.read (k := fun _ => goto .rdoff) (m := 8) (q := .rdoff) rfl (by decide) (by decide) hl rfl
  have rdoff := skipa.read (k := latchDataOffset) (m := 4) (q := .skipb) rfl (by decide) (by decide) hl <| by
    rw [hb, e10, latchDataOffset, le32_leBytes]
    rfl
  have skipb := rdoff.read (k := fun _ => goto .rdwid) (m := 4) (q := .rdwid) rfl (by decide) (by decide) hl rfl
  have rdwid := skipb.read (k := latchWidth) (m := 4) (q := .rdhgt) rfl (by decide) (by decide) hl <| by
    rw [hb, e18, latchWidth, le32_leBytes]
    rfl
  have rdhgt := rdwid.read (k := latchHeight) (m := 4) (q := .rdpln) rfl (by decide) (by decide) hl <| by
    rw [hb, e22, latchHeight, le32_leBytes]
    rfl
  have rdpln := rdhgt.read (k := latchPlanes) (m := 2) (q := .rdbpp) rfl (by decide) (by decide) hl <| by
    rw [hb, e26, latchPlanes, le16_leBytes, beq_iff_eq.mpr hplanes]
    rfl
  have rdbpp := rdpln.read (k := latchBitDepth) (m := 2) (q := .rdcmp) rfl (by decide) (by decide) hl <| by
    rw [hb, e28, latchBitDepth, le16_leBytes, beq_iff_eq.mpr hdepth]
    rfl
  exact rdbpp.read (k := latchCompression) (m := 4) (q := .roword) rfl (by decide) (by decide) hl <| by
    rw [hb, e30, latchCompression, le32_leBytes, beq_iff_eq.mpr hcomp]
    rfl

/-- Settles O27: the header operations up to the erring one pass, and the trap ends the sequence. -/
theorem firstErringHeaderRequestEndsTheLoad : Obligations.FirstErringHeaderRequestEndsTheLoad := by
  unfold Obligations.FirstErringHeaderRequestEndsTheLoad
  intro h s j e ha hj hpass herr
  have hrun : HeaderRun h (placeHeader h s) 10 34 .roword (exec (.bmp24 h) s) := headerRun_headerOperations ha rfl
  obtain ⟨t, hx, ht⟩ := hrun.errs j e hj ⟨hpass, herr⟩
  refine ⟨t, hx, ht.phase, ht.errCode, ht.errIo, ht.errValue, ?_, ht.frameCount, ht.frame, ht.trace⟩
  rw [← ht.errPos, ← List.getElem?_map]
  rfl

end Sys2Proof.Machine
end

section
/-! SUPPORT. A load none of whose requests errs, step by step from `HSEEK` to `DONE` (spec/45_frame_finish.md R138,
R140), and the requests it makes (spec/20_memory.md R57). The invariant carries the geometry and the positions; what is
followed here beside it is the phase, the trace, and what no operation after the header writes. -/

namespace Sys2Proof.Machine

/-! ## Runs that go on -/

/-- `n` steps from `s` end in a state of which `P` holds. -/
def Reaches (n : Nat) (s : State) (P : State → Prop) : Prop :=
  ∃ t, Host.Core.run Sys2Proof.core n s = .next t ∧ P t

theorem Reaches.zero {s : State} {P : State → Prop} (h : P s) : Reaches 0 s P := ⟨s, rfl, h⟩

theorem Reaches.one {s t : State} {P : State → Prop} (hs : step s = .next t) (h : P t) : Reaches 1 s P :=
  ⟨t, run_one hs, h⟩

theorem Reaches.trans {m n : Nat} {s : State} {P Q : State → Prop} (h : Reaches m s P)
    (hk : ∀ t, P t → Reaches n t Q) : Reaches (m + n) s Q := by
  obtain ⟨t, hr, ht⟩ := h
  obtain ⟨u, hu, hq⟩ := hk t ht
  exact ⟨u, (run_add hr).trans hu, hq⟩

/-- A loop of `n` turns of `m` steps each. -/
theorem Reaches.iterate {m n : Nat} {s : State} {P : Nat → State → Prop} (h : P 0 s)
    (hk : ∀ i t, i < n → P i t → Reaches m t (P (i + 1))) : Reaches (n * m) s (P n) := by
  induction n with
  | zero =>
    rw [Nat.zero_mul]
    exact .zero h
  | succ n ih =>
    rw [Nat.succ_mul]
    exact (ih fun i t hi => hk i t (hi.trans n.lt_succ_self)).trans fun t => hk n t n.lt_succ_self

theorem run_inv {n : Nat} {s t : State} (h : s.Inv) (hr : Host.Core.run Sys2Proof.core n s = .next t) : t.Inv := by
  induction n generalizing s with
  | zero =>
    cases hr
    exact h
  | succ n ih =>
    obtain ⟨u, hu⟩ := stepFromTheInvariantGoesOn s h
    rw [run_next hu] at hr
    exact ih (stepKeepsTheInvariant s u h hu) hr

/-! ## The cause of a load (R138) -/

/-- A load without a cause has an accepted header, a width that is not negative, and frames for every column. -/
theorem loadCause_none {c : Config} {b : List Byte} (h : loadCause c b = none) :
    (Header.ofBytes b).accepted = true ∧ 0 ≤ (Header.ofBytes b).width.toInt ∧
      (Header.ofBytes b).width.toNat + blankFrames c ≤ c.maxFrames.toNat := by
  simp only [loadCause] at h
  split_ifs at h with hsig hplanes hdepth hcomp hwidth hframes
  exact ⟨(Header.accepted_iff _).mpr ⟨not_not.mp hsig, not_not.mp hplanes, not_not.mp hdepth, not_not.mp hcomp⟩,
    not_lt.mp hwidth, not_lt.mp hframes⟩

/-! ## A load under way -/

/-- What a load has to do with after its header: the bytes, the oracle's coming answers, and the latches it goes on
reading. -/
def State.source (s : State) : List Byte × List (Option ErrAnswer) × Word × Word × Word :=
  (s.stream.bytes, s.stream.script, s.dataOffset, s.widthRaw, s.heightRaw)

/-- A load of the stream `b` whose header has been read stands in phase `p`; no request errs, no host step is due, and
the requests `l` have been made. -/
structure OnLoad (c : Config) (b : List Byte) (p : Phase) (l : List Request) (s : State) : Prop where
  inv : s.Inv
  config : s.config = c
  inputs : s.inputs = []
  source : s.source = (b, [], (Header.ofBytes b).dataOffset, (Header.ofBytes b).width, (Header.ofBytes b).height)
  phase : s.phase = p
  trace : s.trace = l

/-- The next step from `s` is to `t`, where the load stands in phase `p` with the requests `l` made. -/
def StepsOn (c : Config) (b : List Byte) (s t : State) (p : Phase) (l : List Request) : Prop :=
  step s = .next t ∧ OnLoad c b p l t

section
variable {c : Config} {b : List Byte} {p : Phase} {l : List Request} {s : State}

theorem OnLoad.bytes (h : OnLoad c b p l s) : s.stream.bytes = b := congrArg (·.1) h.source
theorem OnLoad.script (h : OnLoad c b p l s) : s.stream.script = [] := congrArg (·.2.1) h.source
theorem OnLoad.dataOffset (h : OnLoad c b p l s) : s.dataOffset = (Header.ofBytes b).dataOffset :=
  congrArg (·.2.2.1) h.source
theorem OnLoad.widthRaw (h : OnLoad c b p l s) : s.widthRaw = (Header.ofBytes b).width := congrArg (·.2.2.2.1) h.source
theorem OnLoad.heightRaw (h : OnLoad c b p l s) : s.heightRaw = (Header.ofBytes b).height :=
  congrArg (·.2.2.2.2) h.source

theorem OnLoad.requestPasses (h : OnLoad c b p l s) : s.requestPasses := by
  rw [State.requestPasses, h.script]
  rfl

theorem OnLoad.source_afterRequest (h : OnLoad c b p l s) (r : Request) (q : Pos) :
    (s.afterRequest r q).source = s.source := by
  simp [State.source, State.afterRequest, h.script]

/-- One operation of the load. -/
theorem OnLoad.step {q : Phase} {i : Instr} {t : State} {l' : List Request} (h : OnLoad c b p l s)
    (ho : p.operation = some i) (hx : exec i s = .next t) (hs : t.source = s.source) (hq : t.phase = q)
    (hl : t.trace = l') : StepsOn c b s t q l' := by
  have kept := exec_operation_kept ho hx
  refine ⟨(step_operation h.inv.legal h.inputs (h.phase ▸ ho)).trans hx, ?_⟩
  exact ⟨exec_operation_inv h.inv h.phase ho hx, kept.config.trans h.config, kept.inputs.trans h.inputs,
    hs.trans h.source, hq, hl⟩

/-- The operations before the one `PHASE` names have completed. -/
theorem OnLoad.milestone (h : OnLoad c b p l s) (hp : p ≠ .error) : s.Reached p :=
  h.phase ▸ h.inv.reached (h.phase ▸ hp)

/-- After `STRIDE` the width is that of R138. -/
theorem OnLoad.width (h : OnLoad c b p l s) (hp : p.past 12) : s.width.toNat = loadWidth b := by
  obtain ⟨hw, _⟩ := h.milestone hp.2 .stride hp.1
  rw [hw, h.widthRaw]
  rfl

/-- After `CLIP` the rows are those of R138. -/
theorem OnLoad.clipH (h : OnLoad c b p l s) (hp : p.past 13) : s.clipH.toNat = loadRows c b := by
  obtain ⟨hclip, _⟩ := h.milestone hp.2 .clip hp.1
  obtain ⟨hheight, _⟩ := h.milestone hp.2 .roword (Nat.lt_of_le_of_lt (by decide) hp.1)
  rw [hclip, hheight, h.heightRaw, h.config]
  rfl

/-- After `CLIP` a row's seek target is its row start of R67. -/
theorem OnLoad.seekTarget_eq (h : OnLoad c b p l s) (hp : p.past 13) : seekTarget s = loadRowStart b s.row.toNat := by
  obtain ⟨hheight, horder⟩ := h.milestone hp.2 .roword (Nat.lt_of_le_of_lt (by decide) hp.1)
  obtain ⟨_, _, hstride⟩ := h.milestone hp.2 .stride (Nat.lt_of_le_of_lt (by decide) hp.1)
  have hw := h.width ⟨Nat.lt_of_le_of_lt (by decide) hp.1, hp.2⟩
  rw [h.heightRaw] at hheight horder
  have hsource : sourceRow s = loadStoredRow b s.row.toNat := by
    unfold sourceRow loadStoredRow loadHeight
    cases ho : s.rowOrder with
    | topDown => rw [if_neg (by simpa using horder.mp ho)]
    | bottomUp => rw [if_pos (by simpa [ho] using horder), hheight]
  rw [seekTarget, loadRowStart, hsource, hstride, hw, h.dataOffset, rowStrideOf]

/-! ## The geometry operations (R106 to R109) -/

/-- Where the row loop stands before display row `r`. -/
def rowPhase (rows r : Nat) : Phase := if r < rows then .rowseek else .blank

/-- Where the pixel loop stands before column `f`. -/
def pixelPhase (width f : Nat) : Phase := if f < width then .pixrd else .rowend

theorem OnLoad.roword (h : OnLoad c b .roword l s) :
    StepsOn c b s { s with
      rowOrder := rowOrderOf s.heightRaw, height := heightMagnitude s.heightRaw, phase := .stride } .stride l :=
  h.step rfl rfl rfl rfl h.trace

theorem OnLoad.stride (h : OnLoad c b .stride l s) (hc : loadCause c b = none) :
    StepsOn c b s { s with
      width := s.widthRaw, rowStride := BitVec.ofNat 64 (rowStrideOf s.widthRaw.toNat), phase := .clip } .clip l := by
  have hw : ¬sint32 s.widthRaw < 0 := by
    rw [sint32_eq_toInt, h.widthRaw]
    exact not_lt.mpr (loadCause_none hc).2.1
  exact h.step rfl (if_neg hw) rfl rfl h.trace

theorem OnLoad.clip (h : OnLoad c b .clip l s) (hc : loadCause c b = none) :
    StepsOn c b s { clipRegisters s with row := 0, phase := .fclear } .fclear l := by
  have hw : ¬s.config.maxFrames.toNat < frameTotalOf s.config s.width := by
    rw [frameTotalOf, h.width ⟨by decide, by decide⟩, h.config]
    exact not_lt.mpr (loadCause_none hc).2.2
  exact h.step rfl (if_neg hw) rfl rfl h.trace

theorem OnLoad.fclear (h : OnLoad c b .fclear l s) :
    StepsOn c b s { s with
      frame := s.frame.writeBytes 0 (zeros (s.width.toNat * frameLength s.config))
      phase := rowPhase (loadRows c b) 0 } (rowPhase (loadRows c b) 0) l := by
  have hp : (if s.clipH = 0 then .blank else .rowseek) = rowPhase (loadRows c b) 0 := by
    simp only [rowPhase, ← h.clipH ⟨by decide, by decide⟩, word_zero_iff, Nat.pos_iff_ne_zero, ne_eq, ite_not]
  refine h.step rfl ?_ rfl rfl h.trace
  rw [← hp]
  exact storeFrame_inRange _ (fclear_inRange (h.milestone (by decide)))

/-! ## The pixel loop (R116, R117, R126, R129, R130) -/

/-- The requests of display row `r` once its first `f` columns have been read (R57). -/
def rowReads (b : List Byte) (r f : Nat) : List Request :=
  .seek (BitVec.ofNat 64 (loadRowStart b r)) ::
    (List.range f).map fun i => .read 3 (BitVec.ofNat 64 (loadRowStart b r + 3 * i))

theorem rowReads_loadWidth (b : List Byte) (r : Nat) : rowReads b r (loadWidth b) = rowTrace b r := rfl

theorem rowReads_succ (b : List Byte) (r f : Nat) :
    rowReads b r (f + 1) = rowReads b r f ++ [.read 3 (BitVec.ofNat 64 (loadRowStart b r + 3 * f))] := by
  simp only [rowReads, List.range_succ, List.map_append, List.cons_append, List.map_cons, List.map_nil]

theorem toNat_succ_of_lt {x y : Word} (h : x.toNat < y.toNat) :
    (BitVec.ofNat 32 (x.toNat + 1)).toNat = x.toNat + 1 := by
  have := y.isLt
  rw [BitVec.toNat_ofNat]
  omega

theorem OnLoad.rowseek (h : OnLoad c b .rowseek l s) :
    StepsOn c b s
      { s.afterRequest (.seek (BitVec.ofNat 64 (seekTarget s))) (BitVec.ofNat 64 (seekTarget s)) with
        spos := BitVec.ofNat 64 (seekTarget s), col := 0, phase := pixelPhase (loadWidth b) 0 }
      (pixelPhase (loadWidth b) 0) (l ++ rowReads b s.row.toNat 0) := by
  have hp : (if s.width = 0 then .rowend else .pixrd) = pixelPhase (loadWidth b) 0 := by
    simp only [pixelPhase, ← h.width ⟨by decide, by decide⟩, word_zero_iff, Nat.pos_iff_ne_zero, ne_eq, ite_not]
  refine h.step rfl ?_ (h.source_afterRequest (.seek (BitVec.ofNat 64 (seekTarget s))) _) rfl ?_
  · rw [← hp]
    exact seekThen_passes _ _ h.requestPasses
  · rw [← h.trace, rowReads, ← h.seekTarget_eq ⟨by decide, by decide⟩]
    rfl

theorem OnLoad.pixrd (h : OnLoad c b .pixrd l s)
    (hl : loadRowStart b s.row.toNat + 3 * loadWidth b ≤ b.length) :
    StepsOn c b s
      { s.served 3 with pix := Triple.ofBytes (slice s.stream.pos.toNat 3 s.stream.bytes), phase := .gamma } .gamma
      (l ++ [.read 3 (BitVec.ofNat 64 (loadRowStart b s.row.toNat + 3 * s.col.toNat))]) := by
  obtain ⟨_, hcol, hspos⟩ := h.inv.spot h.phase rfl
  have hshadow := (h.inv.going h.phase rfl).shadow rfl (by decide)
  rw [h.width ⟨by decide, by decide⟩] at hcol
  rw [h.seekTarget_eq ⟨by decide, by decide⟩] at hspos
  have hshort : ¬s.shortOf 3 := by
    rw [State.shortOf, hshadow, hspos, h.bytes]
    omega
  refine h.step rfl (readThen_serves 3 latchPixel h.requestPasses hshort)
    (h.source_afterRequest (.read 3 s.spos) _) rfl ?_
  rw [← h.trace, ← hspos, BitVec.ofNat_toNat, BitVec.setWidth_eq]
  rfl

theorem OnLoad.gamma (h : OnLoad c b .gamma l s) :
    StepsOn c b s { s with cor := s.pix.corrected s.config, phase := .reord } .reord l :=
  h.step rfl rfl rfl rfl h.trace

theorem OnLoad.reord (h : OnLoad c b .reord l s) :
    StepsOn c b s { s with out := s.cor.reordered s.config, phase := .pixst } .pixst l :=
  h.step rfl rfl rfl rfl h.trace

theorem OnLoad.pixst (h : OnLoad c b .pixst l s) :
    StepsOn c b s { s with
      frame := s.frame.writeBytes (pixelAddress s) s.out.bytes
      col := BitVec.ofNat 32 (s.col.toNat + 1)
      phase := pixelPhase (loadWidth b) (s.col.toNat + 1) } (pixelPhase (loadWidth b) (s.col.toNat + 1)) l := by
  obtain ⟨hrow, hcol, _⟩ := h.inv.spot h.phase rfl
  have hr : s.Reached .fclear := fun q hq => h.milestone (by decide) q (hq.trans (by decide))
  refine h.step rfl ?_ rfl rfl h.trace
  rw [← h.width ⟨by decide, by decide⟩]
  exact storeFrame_inRange _ (pixst_inRange hr hrow hcol)

/-- One pixel: read, corrected, reordered, stored. -/
theorem OnLoad.pixel (h : OnLoad c b .pixrd l s) (hl : loadRowStart b s.row.toNat + 3 * loadWidth b ≤ b.length) :
    Reaches 4 s fun t =>
      OnLoad c b (pixelPhase (loadWidth b) (s.col.toNat + 1))
        (l ++ [.read 3 (BitVec.ofNat 64 (loadRowStart b s.row.toNat + 3 * s.col.toNat))]) t ∧
      t.row = s.row ∧ t.col.toNat = s.col.toNat + 1 := by
  have hcol := (h.inv.spot h.phase rfl).2.1
  obtain ⟨hs1, h1⟩ := h.pixrd hl
  obtain ⟨hs2, h2⟩ := h1.gamma
  obtain ⟨hs3, h3⟩ := h2.reord
  obtain ⟨hs4, h4⟩ := h3.pixst
  exact ⟨_, (run_next hs1).trans ((run_next hs2).trans ((run_next hs3).trans (run_one hs4))), h4, rfl,
    toNat_succ_of_lt hcol⟩

/-! ## The row loop (R118) -/

theorem OnLoad.rowend (h : OnLoad c b .rowend l s) :
    StepsOn c b s { s with
      row := BitVec.ofNat 32 (s.row.toNat + 1)
      phase := rowPhase (loadRows c b) (s.row.toNat + 1) } (rowPhase (loadRows c b) (s.row.toNat + 1)) l := by
  refine h.step rfl ?_ rfl rfl h.trace
  rw [← h.clipH ⟨by decide, by decide⟩]
  rfl

/-- One display row: its seek, a read per column, and the row's end. -/
theorem OnLoad.row (h : OnLoad c b .rowseek l s) (hh : streamHolds c b) :
    Reaches (1 + loadWidth b * 4 + 1) s fun t =>
      OnLoad c b (rowPhase (loadRows c b) (s.row.toNat + 1)) (l ++ rowTrace b s.row.toNat) t ∧
      t.row.toNat = s.row.toNat + 1 := by
  have hrow := (h.inv.spot h.phase rfl).1
  have hrows := hrow.trans_eq (h.clipH ⟨by decide, by decide⟩)
  obtain ⟨hs, hseek⟩ := h.rowseek
  have hpixels := Reaches.iterate (m := 4) (n := loadWidth b)
    (P := fun f t => OnLoad c b (pixelPhase (loadWidth b) f) (l ++ rowReads b s.row.toNat f) t ∧
      t.row = s.row ∧ t.col.toNat = f) ⟨hseek, rfl, rfl⟩ ?turn
  case turn =>
    rintro f t hf ⟨ht, hr, rfl⟩
    rw [pixelPhase, if_pos hf] at ht
    rw [rowReads_succ, ← List.append_assoc, ← hr]
    rw [← hr] at ht
    exact ht.pixel (hr ▸ hh.2 _ hrows (Nat.zero_lt_of_lt hf))
  refine ((Reaches.one hs rfl).trans fun _ hu => hu ▸ hpixels).trans fun t ⟨ht, hr, _⟩ => ?_
  rw [pixelPhase, if_neg (lt_irrefl _), rowReads_loadWidth, ← hr] at ht
  obtain ⟨hse, he⟩ := ht.rowend
  rw [← hr]
  exact .one hse ⟨he, toNat_succ_of_lt (hr ▸ hrow)⟩

/-! ## The end of a load (R136, R137) -/

theorem OnLoad.blank (h : OnLoad c b .blank l s) : ∃ t, StepsOn c b s t .finish l := by
  by_cases hl : s.config.loop = true
  · exact ⟨{ s with phase := .finish }, h.step rfl (if_pos hl) rfl rfl h.trace⟩
  · have hr : s.Reached .fclear := fun q hq => h.milestone (by decide) q (hq.trans (by decide))
    have hx : execBlank s = storeFrame (s.width.toNat * frameLength s.config) (zeros (frameLength s.config))
      (goto .finish) s := if_neg hl
    exact ⟨_, h.step rfl (hx.trans (storeFrame_inRange _ (blank_inRange hr hl))) rfl rfl h.trace⟩

theorem OnLoad.finish (h : OnLoad c b .finish l s) :
    StepsOn c b s { s with frameCount := s.frameTotal, phase := .done } .done l :=
  h.step rfl rfl rfl rfl h.trace

/-! ## A whole load -/

/-- From the start of a load the header's ten operations lead to `ROWORD`. -/
theorem State.atLoadStart.header (h : s.atLoadStart) (hl : 34 ≤ s.stream.bytes.length)
    (hc : loadCause s.config s.stream.bytes = none) :
    Reaches 10 s (OnLoad s.config s.stream.bytes .roword headerTrace) := by
  obtain ⟨hinv, hphase, hinputs, hscript, htrace⟩ := h
  have hb : s.stream.bytes = (Header.ofBytes s.stream.bytes).bytes ++ s.stream.bytes.drop 34 := by
    rw [← Header.ofBytes_take, Header.bytes_ofBytes (by rw [List.length_take]; omega), List.take_append_drop]
  have hrun := (run_headerOperations hinv.legal hphase hinputs).trans
    ((headerRun_headerOperations (loadCause_none hc).1 hb).passes (by simp [hscript]))
  refine ⟨_, hrun, run_inv hinv hrun, rfl, hinputs, ?_, rfl, ?_⟩
  · simp [State.source, State.inHeader, State.latched, hscript]
  · simp [State.inHeader, State.latched, htrace, headerTrace]

/-- The geometry operations lead to the row loop. -/
theorem OnLoad.geometry (h : OnLoad c b .roword l s) (hc : loadCause c b = none) :
    Reaches 4 s fun t => OnLoad c b (rowPhase (loadRows c b) 0) l t ∧ t.row.toNat = 0 := by
  obtain ⟨hs1, h1⟩ := h.roword
  obtain ⟨hs2, h2⟩ := h1.stride hc
  obtain ⟨hs3, h3⟩ := h2.clip hc
  obtain ⟨hs4, h4⟩ := h3.fclear
  exact ⟨_, (run_next hs1).trans ((run_next hs2).trans ((run_next hs3).trans (run_one hs4))), h4, rfl⟩

/-- The row loop reads every display row. -/
theorem OnLoad.rows (h : OnLoad c b (rowPhase (loadRows c b) 0) l s) (hrow : s.row.toNat = 0) (hh : streamHolds c b) :
    Reaches (loadRows c b * (1 + loadWidth b * 4 + 1)) s
      (OnLoad c b .blank (l ++ (List.range (loadRows c b)).flatMap (rowTrace b))) := by
  have hloop := Reaches.iterate (m := 1 + loadWidth b * 4 + 1) (n := loadRows c b)
    (P := fun r t => OnLoad c b (rowPhase (loadRows c b) r) (l ++ (List.range r).flatMap (rowTrace b)) t ∧
      t.row.toNat = r) ⟨by simpa using h, hrow⟩ ?turn
  case turn =>
    rintro r t hr ⟨ht, rfl⟩
    rw [rowPhase, if_pos hr] at ht
    rw [List.range_succ, List.flatMap_append, List.flatMap_singleton, ← List.append_assoc]
    exact ht.row hh
  refine hloop.trans fun t ⟨ht, _⟩ => .zero ?_
  rwa [rowPhase, if_neg (lt_irrefl _)] at ht

/-- The last two operations publish the frames. -/
theorem OnLoad.publish (h : OnLoad c b .blank l s) : Reaches 2 s (OnLoad c b .done l) := by
  obtain ⟨t, hs, ht⟩ := h.blank
  obtain ⟨hs', ht'⟩ := ht.finish
  exact ⟨_, (run_next hs).trans (run_one hs'), ht'⟩

/-- R138, R140: a load that meets no error ends in `DONE` after `loadSteps` steps. -/
theorem State.atLoadStart.completes (h : s.atLoadStart) (hh : streamHolds s.config s.stream.bytes)
    (hc : loadCause s.config s.stream.bytes = none) :
    Reaches (loadSteps s.config s.stream.bytes) s
      (OnLoad s.config s.stream.bytes .done (loadTrace s.config s.stream.bytes)) := by
  have hsteps : loadSteps s.config s.stream.bytes =
      10 + 4 + loadRows s.config s.stream.bytes * (1 + loadWidth s.stream.bytes * 4 + 1) + 2 := by
    unfold loadSteps
    ring
  rw [hsteps]
  exact (((h.header hh.1 hc).trans fun _ ht => ht.geometry hc).trans fun _ ⟨ht, hr⟩ => ht.rows hr hh).trans
    fun _ ht => ht.publish

/-- One seek and nine reads for the header, one seek and a read per column for each display row (R57). -/
theorem loadTrace_length (c : Config) (b : List Byte) :
    (loadTrace c b).length = 10 + loadRows c b * (1 + loadWidth b) := by
  have hrow : ∀ r, (rowTrace b r).length = 1 + loadWidth b := fun r => by
    rw [rowTrace, List.length_cons, List.length_map, List.length_range, Nat.add_comm]
  rw [loadTrace, List.length_append, List.length_flatMap]
  simp only [hrow, List.map_const', List.sum_replicate, List.length_range, smul_eq_mul]
  rfl

end

/-- Settles O57: the load completes, and its trace is counted row by row. -/
theorem loadIssuesTheRequestTrace : Obligations.LoadIssuesTheRequestTrace := by
  unfold Obligations.LoadIssuesTheRequestTrace
  intro s h hh hc
  obtain ⟨t, hr, ht⟩ := h.completes hh hc
  exact ⟨t, hr, ht.phase, ht.trace, ht.trace ▸ loadTrace_length _ _⟩

end Sys2Proof.Machine
end

section
/-! SUPPORT. The three encodings (spec/30_encoding.md R61, R62, R70 to R72): decoder and encoder undo each other, and the
decoder accepts a header exactly where R62's mask and match do. -/

namespace Sys2Proof

/-! ## Decode after encode (R61, R70 to R72) -/

/-- Settles O2, by the fact of each instruction. -/
theorem decodeOfEncodeIsIdentity : Obligations.DecodeOfEncodeIsIdentity := by
  unfold Obligations.DecodeOfEncodeIsIdentity
  intro i
  cases i with
  | start => exact Laws.DecodeEncode.start
  | frd f => exact Laws.DecodeEncode.frd f
  | hseek => exact Laws.DecodeEncode.hseek
  | rdsig => exact Laws.DecodeEncode.rdsig
  | skipa => exact Laws.DecodeEncode.skipa
  | rdoff => exact Laws.DecodeEncode.rdoff
  | skipb => exact Laws.DecodeEncode.skipb
  | rdwid => exact Laws.DecodeEncode.rdwid
  | rdhgt => exact Laws.DecodeEncode.rdhgt
  | rdpln => exact Laws.DecodeEncode.rdpln
  | rdbpp => exact Laws.DecodeEncode.rdbpp
  | rdcmp => exact Laws.DecodeEncode.rdcmp
  | roword => exact Laws.DecodeEncode.roword
  | stride => exact Laws.DecodeEncode.stride
  | clip => exact Laws.DecodeEncode.clip
  | fclear => exact Laws.DecodeEncode.fclear
  | rowseek => exact Laws.DecodeEncode.rowseek
  | pixrd => exact Laws.DecodeEncode.pixrd
  | gamma => exact Laws.DecodeEncode.gamma
  | reord => exact Laws.DecodeEncode.reord
  | pixst => exact Laws.DecodeEncode.pixst
  | rowend => exact Laws.DecodeEncode.rowend
  | blank => exact Laws.DecodeEncode.blank
  | finish => exact Laws.DecodeEncode.finish
  | bmp24 h => exact Laws.DecodeEncode.bmp24 h

/-! ## Encode after decode -/

/-- A code that names a phase is that phase's code; 0x17 to 0x1D name none (R72). -/
theorem code_of_ofCode {c : BitVec 5} {p : Phase} (h : Phase.ofCode c = some p) : p.code = c := by
  have hall : ∀ d : BitVec 5, (Phase.ofCode d).all (fun q => q.code = d) = true := by decide
  simpa [h] using hall c

theorem encode_operation {p : Phase} {i : Instr} (h : p.operation = some i) :
    encode i = .phase p.code ∧ i.wf = true := by
  cases p <;> cases h <;> exact ⟨rfl, rfl⟩

/-- Every `PHASE` code that is not refused (R72). -/
theorem decodePhase_cases {c : BitVec 5} {i : Instr} (h : decodePhase c = .ok i) :
    ∃ p : Phase, p.code = c ∧ p.operation = some i := by
  cases hp : Phase.ofCode c with
  | none => simp [decodePhase, hp] at h
  | some p =>
    have hc := code_of_ofCode hp
    exact ⟨p, hc, operation_of_decode (hc ▸ h)⟩

/-- Settles O3, by what each of the three decoders accepts. -/
theorem encodeOfDecodeIsIdentity : Obligations.EncodeOfDecodeIsIdentity := by
  unfold Obligations.EncodeOfDecodeIsIdentity
  intro e i h
  cases e with
  | phase c =>
    obtain ⟨p, rfl, ho⟩ := decodePhase_cases h
    exact encode_operation ho
  | command w =>
    rcases decodeCommand_cases h with ⟨rfl, rfl⟩ | ⟨f, hf, rfl, rfl⟩
    · exact ⟨rfl, rfl⟩
    · exact ⟨rfl, decide_eq_true hf⟩
  | header b =>
    obtain ⟨hl, ha, rfl⟩ := (decodeHeader_ok_iff b i).mp h
    exact ⟨congrArg Encoded.header (Header.bytes_ofBytes hl), ha⟩

/-! ## Mask and match (R62) -/

theorem append_eq_append_iff {m n : Nat} (x x' : BitVec m) (y y' : BitVec n) :
    x ++ y = x' ++ y' ↔ x = x' ∧ y = y' := by
  constructor
  · intro h
    have hx := congrArg (BitVec.extractLsb' n m) h
    have hy := congrArg (BitVec.extractLsb' 0 n) h
    simp only [BitVec.extractLsb'_append_eq_left, BitVec.extractLsb'_append_eq_right] at hx hy
    exact ⟨hx, hy⟩
  · rintro ⟨rfl, rfl⟩
    rfl

/-- The bytes that come later in the stream are the more significant ones (R9). -/
theorem ofNat_leNat_take (p n : Nat) {b : List Byte} (h : p + n ≤ b.length) :
    BitVec.ofNat (8 * n + 8 * p) (leNat (b.take (p + n))) =
      BitVec.ofNat (8 * n) (leNat (slice p n b)) ++ BitVec.ofNat (8 * p) (leNat (b.take p)) := by
  have hp : (b.take p).length = p := List.length_take_of_le (by omega)
  have hlow := leNat_lt (b.take p)
  have hhigh := leNat_lt (slice p n b)
  have hall := leNat_lt (b.take (p + n))
  have happend : leNat (b.take (p + n)) = leNat (b.take p) + 2 ^ (8 * p) * leNat (slice p n b) := by
    rw [List.take_add, leNat_append, hp, slice]
  rw [hp] at hlow
  rw [slice_length h] at hhigh
  rw [List.length_take_of_le h, Nat.mul_add, Nat.add_comm (8 * p)] at hall
  apply BitVec.eq_of_toNat_eq
  rw [Machine.toNat_append_eq_add, BitVec.toNat_ofNat, BitVec.toNat_ofNat, BitVec.toNat_ofNat, Nat.mod_eq_of_lt hall,
    Nat.mod_eq_of_lt hhigh, Nat.mod_eq_of_lt hlow, happend, Nat.mul_comm, Nat.add_comm]

/-- Stream positions 2 to 25: the fields on which R62 puts no condition. -/
def freeBits (b : List Byte) : BitVec 192 := BitVec.ofNat 192 (leNat (slice 2 24 b))

/-- `H` from its highest field to its lowest (R61, R62). -/
theorem headerWord_eq_append {b : List Byte} (h : b.length = 34) :
    headerWord b = (Header.ofBytes b).compression ++ ((Header.ofBytes b).bitDepth ++ ((Header.ofBytes b).planes ++
      (freeBits b ++ (Header.ofBytes b).sig))) := by
  have hcompression := ofNat_leNat_take 30 4 (b := b) (by omega)
  have hbitDepth := ofNat_leNat_take 28 2 (b := b) (by omega)
  have hplanes := ofNat_leNat_take 26 2 (b := b) (by omega)
  have hfree := ofNat_leNat_take 2 24 (b := b) (by omega)
  rw [List.take_of_length_le (by omega)] at hcompression
  rw [hfree] at hplanes
  rw [hplanes] at hbitDepth
  rw [hbitDepth] at hcompression
  exact hcompression

theorem headerMask_eq_append :
    headerMask = BitVec.allOnes 32 ++ (BitVec.allOnes 16 ++ (BitVec.allOnes 16 ++ (0#192 ++ BitVec.allOnes 16))) := by
  decide +kernel

theorem headerMatch_eq_append : headerMatch = 0#32 ++ (24#16 ++ (1#16 ++ (0#192 ++ 0x4D42#16))) := by
  decide +kernel

/-- The mask keeps the four validated fields and clears the free bits (R62). -/
theorem masked_eq_append {b : List Byte} (h : b.length = 34) :
    headerWord b &&& headerMask = (Header.ofBytes b).compression ++ ((Header.ofBytes b).bitDepth ++
      ((Header.ofBytes b).planes ++ (0#192 ++ (Header.ofBytes b).sig))) := by
  rw [headerWord_eq_append h, headerMask_eq_append]
  refine BitVec.and_append.trans ?_
  simp only [BitVec.and_append, BitVec.and_allOnes, BitVec.and_zero]

/-- Masked and matched, the four fields hold their fixed values (R62). -/
theorem masked_eq_match_iff {b : List Byte} (h : b.length = 34) :
    headerWord b &&& headerMask = headerMatch ↔ (Header.ofBytes b).accepted = true := by
  rw [masked_eq_append h, headerMatch_eq_append, Header.accepted_iff]
  refine (append_eq_append_iff _ _ _ _).trans ?_
  simp only [append_eq_append_iff, true_and]
  exact ⟨fun ⟨hc, hd, hp, hs⟩ => ⟨hs, hp, hd, hc⟩, fun ⟨hs, hp, hd, hc⟩ => ⟨hc, hd, hp, hs⟩⟩

/-- Settles O4: the decoder and the mask accept the same headers. -/
theorem headerPatternIsMaskAndMatch : Obligations.HeaderPatternIsMaskAndMatch := by
  unfold Obligations.HeaderPatternIsMaskAndMatch
  intro b hl
  rw [masked_eq_match_iff hl]
  constructor
  · rintro ⟨i, hi⟩
    exact ((decodeHeader_ok_iff b i).mp hi).2.1
  · exact fun ha => ⟨_, (decodeHeader_ok_iff b _).mpr ⟨hl, ha, rfl⟩⟩

/-! ## Words of the spec -/

/-- Settles O1, by running the decoder on each word. -/
theorem tableWordsDecode : Obligations.TableWordsDecode := by
  unfold Obligations.TableWordsDecode
  decide +kernel

end Sys2Proof
end

section
/-! SUPPORT. The fields R63 discards (spec/30_encoding.md): two streams that differ only there are read alike by every
header operation. The model's `replaceStream` takes a state of the one run to the state of the other. -/

namespace Sys2Proof.Machine

/-! ## What follows a read does not look at the stream -/

/-- `k` goes on, in phase `q` or trapped, with the stream as it was, and does the same on any other bytes. -/
def IgnoresStream (k : State → Outcome) (q : Phase) : Prop :=
  ∀ s, ∃ t, k s = .next t ∧ (t.phase = q ∨ t.phase = .error) ∧ t.stream = s.stream ∧
    ∀ b, k (replaceStream b s) = .next (replaceStream b t)

theorem goto_ignoresStream (q : Phase) : IgnoresStream (goto q) q := fun _ => ⟨_, rfl, .inl rfl, rfl, fun _ => rfl⟩

theorem checkThen_ignoresStream (ok : Bool) (c : Cause) (v : Word) (q : Phase) :
    IgnoresStream (checkThen ok c v q) q := by
  intro s
  cases ok with
  | true => exact ⟨_, checkThen_pass c v q s, .inl rfl, rfl, fun _ => rfl⟩
  | false => exact ⟨_, checkThen_fail c v q s, .inr rfl, rfl, fun _ => rfl⟩

/-! ## Two runs side by side -/

/-- Two runs on the bytes `b` and `b'` have gone on alike: both have trapped, or both are in phase `p` with the stream
at `pos`. -/
def RunAlike (b b' : List Byte) (p : Phase) (pos : Nat) (o o' : Outcome) : Prop :=
  ∃ t, o = .next t ∧ o' = .next (replaceStream b' t) ∧
    (t.phase = .error ∨ t.phase = p ∧ t.stream.bytes = b ∧ t.stream.pos = BitVec.ofNat 64 pos)

theorem runAlike_execHseek (s : State) (b' : List Byte) :
    RunAlike s.stream.bytes b' .rdsig 0 (execHseek s) (execHseek (replaceStream b' s)) := by
  rcases s.requestPasses_or_errs with h | ⟨e, h⟩
  · exact ⟨_, seekThen_passes 0 _ h, seekThen_passes (s := replaceStream b' s) 0 _ h, .inr ⟨rfl, rfl, rfl⟩⟩
  · exact ⟨_, seekThen_errs 0 _ h, seekThen_errs (s := replaceStream b' s) 0 _ h, .inl rfl⟩

section
variable {b b' : List Byte} {pos m : Nat} {q : Phase} {k : List Byte → State → Outcome}

/-- One read of the same bytes from both streams: both requests err, both meet the end of the file, or both are served. -/
theorem runAlike_readThen {s : State} (hb : s.stream.bytes = b) (hpos : s.stream.pos = BitVec.ofNat 64 pos)
    (hlt : pos < 2 ^ 64) (hl : b'.length = b.length) (hk : ∀ c, IgnoresStream (k c) q)
    (hsame : k (slice pos m b') = k (slice pos m b)) :
    RunAlike b b' q (pos + m) (readThen m k s) (readThen m k (replaceStream b' s)) := by
  have hnat : s.stream.pos.toNat = pos := by
    rw [hpos, BitVec.toNat_ofNat, Nat.mod_eq_of_lt hlt]
  rcases s.requestPasses_or_errs with h | ⟨e, h⟩
  · have hshort : (replaceStream b' s).shortOf m ↔ s.shortOf m := by
      show b'.length < _ ↔ s.stream.bytes.length < _
      rw [hl, hb]
      rfl
    by_cases hs : s.shortOf m
    · exact ⟨_, readThen_short m k h hs, readThen_short (s := replaceStream b' s) m k h (hshort.mpr hs), .inl rfl⟩
    · obtain ⟨t, hx, hphase, hstream, hother⟩ := hk (slice pos m b) (s.served m)
      refine ⟨t, ?_, ?_, hphase.symm.imp_right fun hq => ⟨hq, ?_, ?_⟩⟩
      · rw [readThen_serves m k h hs, hnat, hb, hx]
      · rw [readThen_serves (s := replaceStream b' s) m k h (mt hshort.mp hs), ← hother b', ← hsame, ← hnat]
        rfl
      · rw [hstream]
        exact hb
      · rw [hstream, BitVec.ofNat_add, ← hpos]
        rfl
  · exact ⟨_, readThen_errs m k h, readThen_errs (s := replaceStream b' s) m k h, .inl rfl⟩

/-- One operation more. -/
theorem RunAlike.read {p : Phase} {o o' : Outcome} (h : RunAlike b b' p pos o o') (hp : p ≠ .error)
    (hlt : pos < 2 ^ 64) (hl : b'.length = b.length) (hk : ∀ c, IgnoresStream (k c) q)
    (hsame : k (slice pos m b') = k (slice pos m b)) :
    RunAlike b b' q (pos + m) (andThen o p (readThen m k)) (andThen o' p (readThen m k)) := by
  obtain ⟨t, ho, ho', herr | ⟨hphase, hb, hpos⟩⟩ := h
  · have hne : t.phase ≠ p := herr.trans_ne hp.symm
    exact ⟨t, andThen_skip ho hne, andThen_skip ho' hne, .inl herr⟩
  · rw [andThen_of ho hphase, andThen_of ho' hphase]
    exact runAlike_readThen hb hpos hlt hl hk hsame

end

/-! ## The whole header -/

/-- Two streams hold the same bytes where a header field is latched, and are equally long. -/
structure LatchedAlike (b b' : List Byte) : Prop where
  length : b'.length = b.length
  sig : slice 0 2 b' = slice 0 2 b
  dataOffset : slice 10 4 b' = slice 10 4 b
  width : slice 18 4 b' = slice 18 4 b
  height : slice 22 4 b' = slice 22 4 b
  planes : slice 26 2 b' = slice 26 2 b
  bitDepth : slice 28 2 b' = slice 28 2 b
  compression : slice 30 4 b' = slice 30 4 b

/-- So do streams that begin with headers which differ in the discarded fields only. -/
theorem latchedAlike_bytes_append {h h' : Header} (r : List Byte)
    (heq : h' = { h with fileSize := h'.fileSize, reserved := h'.reserved, dibSize := h'.dibSize }) :
    LatchedAlike (h.bytes ++ r) (h'.bytes ++ r) := by
  obtain ⟨e0, -, -, e10, -, e18, e22, e26, e28, e30⟩ := h.slices r
  obtain ⟨e0', -, -, e10', -, e18', e22', e26', e28', e30'⟩ := h'.slices r
  constructor
  case length => rw [List.length_append, List.length_append, h.bytes_length, h'.bytes_length]
  case sig => rw [e0, e0', heq]
  case dataOffset => rw [e10, e10', heq]
  case width => rw [e18, e18', heq]
  case height => rw [e22, e22', heq]
  case planes => rw [e26, e26', heq]
  case bitDepth => rw [e28, e28', heq]
  case compression => rw [e30, e30', heq]

/-- The ten header operations on two such streams: what the two skips read is free to differ. -/
theorem runAlike_headerOperations {s : State} {b' : List Byte} (h : LatchedAlike s.stream.bytes b') :
    RunAlike s.stream.bytes b' .roword 34 (headerOperations s) (headerOperations (replaceStream b' s)) := by
  have hseek := runAlike_execHseek s b'
  have rdsig := hseek.read (k := latchSignature) (by decide) (by decide) h.length
    (fun _ _ => checkThen_ignoresStream _ _ _ _ _) (congrArg _ h.sig)
  have skipa := rdsig.read (m := 8) (by decide) (by decide) h.length (fun _ => goto_ignoresStream .rdoff) rfl
  have rdoff := skipa.read (k := latchDataOffset) (by decide) (by decide) h.length
    (fun _ _ => goto_ignoresStream _ _) (congrArg _ h.dataOffset)
  have skipb := rdoff.read (m := 4) (by decide) (by decide) h.length (fun _ => goto_ignoresStream .rdwid) rfl
  have rdwid := skipb.read (k := latchWidth) (by decide) (by decide) h.length
    (fun _ _ => goto_ignoresStream _ _) (congrArg _ h.width)
  have rdhgt := rdwid.read (k := latchHeight) (by decide) (by decide) h.length
    (fun _ _ => goto_ignoresStream _ _) (congrArg _ h.height)
  have rdpln := rdhgt.read (k := latchPlanes) (by decide) (by decide) h.length
    (fun _ _ => checkThen_ignoresStream _ _ _ _ _) (congrArg _ h.planes)
  have rdbpp := rdpln.read (k := latchBitDepth) (by decide) (by decide) h.length
    (fun _ _ => checkThen_ignoresStream _ _ _ _ _) (congrArg _ h.bitDepth)
  exact rdbpp.read (k := latchCompression) (by decide) (by decide) h.length
    (fun _ _ => checkThen_ignoresStream _ _ _ _ _) (congrArg _ h.compression)

/-- Settles O29: the two runs go on alike to their end. -/
theorem discardedHeaderFieldsHaveNoEffect : Obligations.DiscardedHeaderFieldsHaveNoEffect := by
  unfold Obligations.DiscardedHeaderFieldsHaveNoEffect
  intro h h' s t heq ht
  obtain ⟨u, hu, hu', -⟩ :=
    runAlike_headerOperations (s := placeHeader h s) (latchedAlike_bytes_append (s.stream.bytes.drop 34) heq)
  cases hu.symm.trans ht
  exact hu'

end Sys2Proof.Machine
end

section
/-! SUPPORT. The host's commands (spec/40_host_commands.md R80 to R83): what an accepted `START` and an accepted `FRD`
answer, when they are refused, and which words are no command at all. -/

namespace Sys2Proof.Machine

/-! ## FRD (R82) -/

/-- The host receives a published frame whole. -/
theorem execFrd_published {s : State} {f : Nat} (h : s.Inv) (hf : s.phase = .done ∧ f < s.frameCount.toNat) :
    ∃ v : List Byte, v.length = frameLength s.config ∧
      (∀ i, i < frameLength s.config → s.frame.read (f * frameLength s.config + i) = v[i]?) ∧
      execFrd f s = .next { s with answer := .bytes v } := by
  obtain ⟨hin, hwritten⟩ := h.published_readable hf.1 hf.2
  obtain ⟨v, hl, hv, hx⟩ := loadFrame_filled (fun v t => .next { t with answer := .bytes v }) hin hwritten
  exact ⟨v, hl, hv, (if_pos hf).trans hx⟩

theorem execFrd_refused {s : State} {f : Nat} (h : ¬(s.phase = .done ∧ f < s.frameCount.toNat)) :
    execFrd f s = .next { refuseCommand s with answer := .nothing } := if_neg h

/-- Settles O6: a published frame reads whole, and a refusal answers nothing. -/
theorem frdReturnsTheWholeFrameOrIsRefused : Obligations.FrdReturnsTheWholeFrameOrIsRefused := by
  unfold Obligations.FrdReturnsTheWholeFrameOrIsRefused
  intro s f hinv
  refine ⟨execFrd_published hinv, fun hf => ⟨_, execFrd_refused hf, rfl, fun v hv => ?_⟩⟩
  cases hv

/-! ## START (R81) -/

theorem execStart_accepted {s : State} (h : s.phase = .idle ∨ s.phase = .error) :
    execStart s = .next (beginLoad s) := if_pos h

theorem execStart_refused {s : State} (h : ¬(s.phase = .idle ∨ s.phase = .error)) :
    execStart s = .next (refuseCommand s) := if_neg h

/-- An accepted `START` leaves every register but `PHASE` and `FRAME` as reset does (R28, R81). -/
theorem beginLoad_eq_resetWith (s : State) :
    beginLoad s = { State.resetWith s.config s.stream with
      phase := .hseek, frame := s.frame, inputs := s.inputs, answer := s.answer, trace := (beginLoad s).trace } := rfl

/-- Settles O5: `START` begins a load from the reset values, or is refused. -/
theorem startBeginsALoadOrIsRefused : Obligations.StartBeginsALoadOrIsRefused := by
  unfold Obligations.StartBeginsALoadOrIsRefused
  intro s
  exact ⟨fun h => ⟨beginLoad s, execStart_accepted h, beginLoad_eq_resetWith s⟩, execStart_refused⟩

/-! ## Reserved words (R83) -/

/-- A word with another opcode, or a `START` with an argument, is no command (R70, R71). -/
theorem decode_reservedCommand {w : Word}
    (h : (commandOp w ≠ 0x01 ∧ commandOp w ≠ 0x02) ∨ (commandOp w = 0x01 ∧ commandArg w ≠ 0)) :
    decode (.command w) = .error .reservedCommand := by
  change decodeCommand w = _
  unfold decodeCommand
  rcases h with ⟨hstart, hfrd⟩ | ⟨hstart, harg⟩
  · rw [if_neg hstart, if_neg hfrd]
  · rw [if_pos hstart, if_neg harg]

theorem commandWrite_of_error {w : Word} {e : DecodeError} (s : State) (h : decode (.command w) = .error e) :
    commandWrite w s = .next (refuseCommand s) := by
  simp only [commandWrite, h]

/-- Settles O8: a reserved word does not decode, so the write to `x[0]` is refused. -/
theorem reservedCommandWordIsRefused : Obligations.ReservedCommandWordIsRefused := by
  unfold Obligations.ReservedCommandWordIsRefused
  intro s w rest hlegal hreserved
  exact (step_input _ _ hlegal).trans
    (commandWrite_of_error { s with inputs := rest } (decode_reservedCommand hreserved))

end Sys2Proof.Machine
end

section
/-! SUPPORT. The header parse operations one by one (spec/41_header_parse.md R91 to R100): how each raises IOError, what
it latches, and what its check lets pass. -/

namespace Sys2Proof.Machine

/-! ## What every operation that reads has in common (R43, R44, R90) -/

/-- An operation that begins with a read of `n` bytes raises IOError both ways a read does. -/
theorem readRaises_of_readThen {i : Instr} {n : Nat} {k : List Byte → State → Outcome}
    (h : ∀ s, exec i s = readThen n k s) : readRaises i n where
  left s _ he := (h s).trans (readThen_errs n k he)
  right s hp hs := ⟨_, eofCode_ne_busy s.config.busyCode s.stream, (h s).trans (readThen_short n k hp hs)⟩

/-- A latched value is the one the check asks for. -/
theorem checkThen_beq_of_eq {w : Nat} {x y : BitVec w} (h : x = y) (c : Cause) (v : Word) (p : Phase) (s : State) :
    checkThen (x == y) c v p s = .next { s with phase := p } := by
  rw [beq_iff_eq.mpr h, checkThen_pass]

/-- A latched value is not the one the check asks for. -/
theorem checkThen_beq_of_ne {w : Nat} {x y : BitVec w} (h : x ≠ y) (c : Cause) (v : Word) (p : Phase) (s : State) :
    checkThen (x == y) c v p s = .next (s.trapped c.code v 0 s.spos) := by
  rw [beq_eq_false_iff_ne.mpr h, checkThen_fail]

section
variable {s : State} {b0 b1 b2 b3 : Byte}

/-- A two-byte read of the bytes that come next. -/
theorem readThen_two (k : List Byte → State → Outcome) (hp : s.requestPasses) (hb : s.nextBytes [b0, b1]) :
    readThen 2 k s = k [b0, b1] (s.served 2) := readThen_next k hp hb (List.cons_ne_nil _ _)

/-- A four-byte read of the bytes that come next. -/
theorem readThen_four (k : List Byte → State → Outcome) (hp : s.requestPasses) (hb : s.nextBytes [b0, b1, b2, b3]) :
    readThen 4 k s = k [b0, b1, b2, b3] (s.served 4) := readThen_next k hp hb (List.cons_ne_nil _ _)

end

/-! ## The seek and the skips (R91, R93, R95) -/

/-- Settles O18: a seek errs or goes on from its target. -/
theorem hseekSeeksTheStart : Obligations.HseekSeeksTheStart := by
  unfold Obligations.HseekSeeksTheStart
  exact ⟨fun _ _ he => seekThen_errs 0 _ he, fun _ hp => seekThen_passes 0 _ hp⟩

/-- Settles O20: what follows the read does not look at the bytes. -/
theorem skipsDiscardTheirBytes : Obligations.SkipsDiscardTheirBytes := by
  unfold Obligations.SkipsDiscardTheirBytes
  refine ⟨readRaises_of_readThen fun _ => rfl, readRaises_of_readThen fun _ => rfl, fun s hp => ⟨?skipa, ?skipb⟩⟩
  case skipa => exact fun hs => readThen_serves 8 _ hp hs
  case skipb => exact fun hs => readThen_serves 4 _ hp hs

/-! ## The latches without a check (R94, R96, R97) -/

/-- Settles O21: each latches `le_32` of the four bytes it reads. -/
theorem wordFieldsAreLatchedLittleEndian : Obligations.WordFieldsAreLatchedLittleEndian := by
  unfold Obligations.WordFieldsAreLatchedLittleEndian
  refine ⟨readRaises_of_readThen fun _ => rfl, readRaises_of_readThen fun _ => rfl, readRaises_of_readThen fun _ => rfl,
    fun s b0 b1 b2 b3 hp hb => ?_⟩
  rw [← le32_eq_append]
  exact ⟨readThen_four latchDataOffset hp hb, readThen_four latchWidth hp hb, readThen_four latchHeight hp hb⟩

/-! ## The latches with a check (R92, R98 to R100) -/

/-- Settles O19: the two bytes are compared one by one, `SIG` is latched before. -/
theorem rdsigChecksTheSignature : Obligations.RdsigChecksTheSignature := by
  unfold Obligations.RdsigChecksTheSignature
  refine ⟨readRaises_of_readThen fun _ => rfl, fun s b0 b1 hp hb => ?_⟩
  have hread : exec .rdsig s = latchSignature [b0, b1] (s.served 2) := readThen_two _ hp hb
  refine ⟨fun hsig => ?pass, fun hsig => ?trap⟩
  case pass =>
    obtain ⟨rfl, rfl⟩ := hsig
    exact hread
  case trap =>
    have hbad : ([b0, b1].getD 0 0 == 0x42 && [b0, b1].getD 1 0 == 0x4D) = false := by
      simpa using hsig
    rw [hread, latchSignature, hbad, checkThen_fail, le16_eq_append, zext32_eq_setWidth]
    rfl

/-- Settles O22: `PLANES` is latched before it is compared. -/
theorem rdplnChecksThePlaneCount : Obligations.RdplnChecksThePlaneCount := by
  unfold Obligations.RdplnChecksThePlaneCount
  refine ⟨readRaises_of_readThen fun _ => rfl, fun s b0 b1 hp hb => ?_⟩
  have hread : exec .rdpln s = latchPlanes [b0, b1] (s.served 2) := readThen_two _ hp hb
  rw [hread, latchPlanes, le16_eq_append, zext32_eq_setWidth]
  refine ⟨fun hone => ?pass, fun hne => checkThen_beq_of_ne hne ..⟩
  case pass => rw [checkThen_beq_of_eq hone, hone]

/-- Settles O23: `BIT_DEPTH` is latched before it is compared. -/
theorem rdbppChecksTheBitDepth : Obligations.RdbppChecksTheBitDepth := by
  unfold Obligations.RdbppChecksTheBitDepth
  refine ⟨readRaises_of_readThen fun _ => rfl, fun s b0 b1 hp hb => ?_⟩
  have hread : exec .rdbpp s = latchBitDepth [b0, b1] (s.served 2) := readThen_two _ hp hb
  rw [hread, latchBitDepth, le16_eq_append, zext32_eq_setWidth]
  refine ⟨fun h24 => ?pass, fun hne => checkThen_beq_of_ne hne ..⟩
  case pass => rw [checkThen_beq_of_eq h24, h24]

/-- Settles O24: the comparison is of the whole word, so of all four bytes. -/
theorem rdcmpChecksTheCompression : Obligations.RdcmpChecksTheCompression := by
  unfold Obligations.RdcmpChecksTheCompression
  refine ⟨readRaises_of_readThen fun _ => rfl, fun s b0 b1 b2 b3 hp hb => ?_⟩
  have hread : exec .rdcmp s = latchCompression [b0, b1, b2, b3] (s.served 4) := readThen_four _ hp hb
  rw [hread, latchCompression, le32_eq_append]
  refine ⟨fun hzero => ?pass, fun hne => checkThen_beq_of_ne hne ..⟩
  case pass => rw [checkThen_beq_of_eq hzero, hzero]

end Sys2Proof.Machine
end

section
/-! SUPPORT. The header parsed whole where none of its requests errs (spec/41_header_parse.md R101): an accepted header is
latched, a malformed one traps on the first of its four checks that fails (spec/60_exceptions.md R151 a). -/

namespace Sys2Proof.Machine

/-! ## The first failing field (R146, R151 a) -/

/-- The trap of a header check: its cause and value, the requests made until then, and the stream position. -/
structure FieldTrap where
  cause : Cause
  value : Word
  requests : Nat
  place : Nat

/-- The trap `f` where the check does not hold. -/
def trapUnless (ok : Bool) (f : FieldTrap) : Option FieldTrap := if ok then none else some f

/-- The trap of the first failing field of a header, in stream order; none for an accepted header. -/
def headerTrap (h : Header) : Option FieldTrap :=
  if h.sig ≠ 0x4D42 then some ⟨.fmtSignature, zext32 h.sig, 2, 2⟩
  else if h.planes ≠ 1 then some ⟨.fmtPlanes, zext32 h.planes, 8, 28⟩
  else if h.bitDepth ≠ 24 then some ⟨.fmtBitDepth, zext32 h.bitDepth, 9, 30⟩
  else if h.compression ≠ 0 then some ⟨.fmtCompression, h.compression, 10, 34⟩
  else none

/-- The first trap is found check after check. -/
theorem headerTrap_eq_or (h : Header) :
    headerTrap h = (((trapUnless (h.sig == 0x4D42) ⟨.fmtSignature, zext32 h.sig, 2, 2⟩).or
      (trapUnless (h.planes == 1) ⟨.fmtPlanes, zext32 h.planes, 8, 28⟩)).or
      (trapUnless (h.bitDepth == 24) ⟨.fmtBitDepth, zext32 h.bitDepth, 9, 30⟩)).or
      (trapUnless (h.compression == 0) ⟨.fmtCompression, h.compression, 10, 34⟩) := by
  unfold headerTrap
  split_ifs with hsig hplanes hdepth hcomp <;> simp_all [trapUnless]

theorem exists_headerTrap {h : Header} (ha : h.accepted = false) : ∃ f, headerTrap h = some f := by
  rw [← Option.ne_none_iff_exists']
  intro hnone
  simp only [headerTrap] at hnone
  split_ifs at hnone with hsig hplanes hdepth hcomp
  have hok := h.accepted_iff.mpr ⟨not_not.mp hsig, not_not.mp hplanes, not_not.mp hdepth, not_not.mp hcomp⟩
  exact absurd (hok.symm.trans ha) (by decide)

/-! ## The header operations in order (R75 `HDR`) -/

/-- What a header read from `s` on comes to after `n` passing requests, with the stream at `pos`: phase `p` with the
fields latched, or the trap `f` of a check before. -/
def State.parsed (h : Header) (n pos : Nat) (p : Phase) (s : State) : Option FieldTrap → State
  | none => (s.latched h n p).inHeader n pos
  | some f => ((s.latched h f.requests p).inHeader f.requests f.place).trapped f.cause.code f.value 0
      (BitVec.ofNat 64 f.place)

/-- The outcome of a check. -/
theorem checkThen_parsed (ok : Bool) (c : Cause) (v : Word) (h : Header) (n pos : Nat) (p q : Phase) (s : State) :
    checkThen ok c v q ((s.latched h n p).inHeader n pos) =
      .next (s.parsed h n pos q (trapUnless ok ⟨c, v, n, pos⟩)) := by
  cases ok <;> rfl

/-- One operation more: it reads the next `m` bytes and goes on with `k`, unless a check before has trapped. -/
theorem andThen_parsed {h : Header} {s : State} {n pos m : Nat} {p q : Phase} {o : Outcome} {f g : Option FieldTrap}
    {k : List Byte → State → Outcome} (ho : o = .next (s.parsed h n pos p f))
    (hr : headerTrace[n]? = some (.read m (BitVec.ofNat 64 pos))) (hpass : s.stream.script[n]?.join = none)
    (hm : pos + m ≤ 34) (hp : p ≠ .error) (hl : 34 ≤ s.stream.bytes.length)
    (hk : k (slice pos m s.stream.bytes) ((s.latched h n p).inHeader (n + 1) (pos + m)) =
      .next (s.parsed h (n + 1) (pos + m) q g)) :
    andThen o p (readThen m k) = .next (s.parsed h (n + 1) (pos + m) q (f.or g)) := by
  cases f with
  | none =>
    rw [andThen_of (p := p) ho rfl, Option.none_or, ← hk]
    exact headerRead_passes (s := s.latched h n p) k hr hpass hm hl
  | some f => exact andThen_skip ho hp.symm

/-- The two comparisons of `RDSIG` are one of the signature (R92). -/
theorem signatureBytes_eq_beq (x : Half) :
    ((leBytes 2 x.toNat).getD 0 0 == 0x42 && (leBytes 2 x.toNat).getD 1 0 == 0x4D) = (x == 0x4D42) := by
  rw [Bool.eq_iff_iff, beq_iff_eq]
  constructor
  · intro h
    rw [← le16_leBytes x, le16_signature (leBytes_length _ _) h]
  · rintro rfl
    rfl

/-- The ten header operations on a stream that begins with a header, no request erring. -/
theorem headerOperations_parsed {h : Header} {s : State} {r : List Byte} (hb : s.stream.bytes = h.bytes ++ r)
    (hpass : ∀ i, i < 10 → s.stream.script[i]?.join = none) :
    headerOperations s = .next (s.parsed h 10 34 .roword (headerTrap h)) := by
  obtain ⟨e0, -, -, e10, -, e18, e22, e26, e28, e30⟩ := h.slices r
  have hl : 34 ≤ s.stream.bytes.length := by
    rw [hb, List.length_append, h.bytes_length]
    omega
  have hseek : execHseek s = .next (s.parsed h 1 0 .rdsig none) :=
    (headerRun_hseek h s).passes fun i hi => hpass i (hi.trans (by decide))
  have rdsig := andThen_parsed (k := latchSignature) (m := 2) (q := .skipa) hseek rfl (hpass 1 (by decide))
    (by decide) (by decide) hl <| by
      rw [hb, e0, latchSignature, signatureBytes_eq_beq, le16_leBytes]
      exact checkThen_parsed _ _ _ h 2 2 .rdsig _ s
  have skipa := andThen_parsed (k := fun _ => goto .rdoff) (m := 8) (q := .rdoff) (g := none) rdsig rfl
    (hpass 2 (by decide)) (by decide) (by decide) hl rfl
  have rdoff := andThen_parsed (k := latchDataOffset) (m := 4) (q := .skipb) (g := none) skipa rfl
    (hpass 3 (by decide)) (by decide) (by decide) hl <| by
      rw [hb, e10, latchDataOffset, le32_leBytes]
      rfl
  have skipb := andThen_parsed (k := fun _ => goto .rdwid) (m := 4) (q := .rdwid) (g := none) rdoff rfl
    (hpass 4 (by decide)) (by decide) (by decide) hl rfl
  have rdwid := andThen_parsed (k := latchWidth) (m := 4) (q := .rdhgt) (g := none) skipb rfl
    (hpass 5 (by decide)) (by decide) (by decide) hl <| by
      rw [hb, e18, latchWidth, le32_leBytes]
      rfl
  have rdhgt := andThen_parsed (k := latchHeight) (m := 4) (q := .rdpln) (g := none) rdwid rfl
    (hpass 6 (by decide)) (by decide) (by decide) hl <| by
      rw [hb, e22, latchHeight, le32_leBytes]
      rfl
  have rdpln := andThen_parsed (k := latchPlanes) (m := 2) (q := .rdbpp) rdhgt rfl
    (hpass 7 (by decide)) (by decide) (by decide) hl <| by
      rw [hb, e26, latchPlanes, le16_leBytes]
      exact checkThen_parsed _ _ _ h 8 28 .rdpln _ s
  have rdbpp := andThen_parsed (k := latchBitDepth) (m := 2) (q := .rdcmp) rdpln rfl
    (hpass 8 (by decide)) (by decide) (by decide) hl <| by
      rw [hb, e28, latchBitDepth, le16_leBytes]
      exact checkThen_parsed _ _ _ h 9 30 .rdbpp _ s
  have rdcmp := andThen_parsed (k := latchCompression) (m := 4) (q := .roword) rdbpp rfl
    (hpass 9 (by decide)) (by decide) (by decide) hl <| by
      rw [hb, e30, latchCompression, le32_leBytes]
      exact checkThen_parsed _ _ _ h 10 34 .rdcmp _ s
  simp only [Option.none_or, Option.or_none] at rdcmp
  rw [headerTrap_eq_or]
  exact rdcmp

/-! ## The header taken as one step (R62, R101) -/

/-- A script whose next ten answers let every request pass, answer by answer. -/
theorem script_passes_getElem? {l : List (Option ErrAnswer)} (h : ∀ e ∈ l.take 10, e = none) (i : Nat) (hi : i < 10) :
    l[i]?.join = none := by
  cases he : l[i]? with
  | none => rfl
  | some e =>
    have hmem : e ∈ l.take 10 := List.mem_of_getElem? ((List.getElem?_take_of_lt hi).trans he)
    exact h e hmem

/-- `BMP24` with no request erring. -/
theorem exec_bmp24_parsed (h : Header) {s : State} (hpass : ∀ e ∈ s.stream.script.take 10, e = none) :
    exec (.bmp24 h) s = .next ((placeHeader h s).parsed h 10 34 .roword (headerTrap h)) :=
  headerOperations_parsed (s := placeHeader h s) rfl (script_passes_getElem? hpass)

/-- Settles O25: no check of an accepted header traps, and the latches hold its fields. -/
theorem acceptedHeaderIsLatchedWhole : Obligations.AcceptedHeaderIsLatchedWhole := by
  unfold Obligations.AcceptedHeaderIsLatchedWhole
  intro h s ha hpass
  obtain ⟨hsig, hplanes, hdepth, hcomp⟩ := h.accepted_iff.mp ha
  have htrap : headerTrap h = none := by
    simp [headerTrap, hsig, hplanes, hdepth, hcomp]
  rw [exec_bmp24_parsed h hpass, htrap, ← hsig, ← hplanes, ← hdepth, ← hcomp]
  rfl

/-- Settles O26: the trap is that of the first failing field. -/
theorem malformedHeaderTrapsOnItsFirstFailingField : Obligations.MalformedHeaderTrapsOnItsFirstFailingField := by
  unfold Obligations.MalformedHeaderTrapsOnItsFirstFailingField
  intro h s ha hpass
  obtain ⟨f, hf⟩ := exists_headerTrap ha
  have htrace : s.trace ++ headerTrace.take f.requests <+: s.trace ++ headerTrace :=
    (List.prefix_append_right_inj _).mpr (List.take_prefix _ _)
  have hx := exec_bmp24_parsed h hpass
  rw [hf] at hx
  refine ⟨_, hx, rfl, rfl, rfl, rfl, htrace, ?sig, ?planes, ?bitDepth, ?compression⟩
  case sig =>
    intro hsig
    rw [headerTrap, if_pos hsig] at hf
    cases hf
    exact ⟨rfl, zext32_eq_setWidth _, rfl⟩
  case planes =>
    intro hsig hplanes
    rw [headerTrap, if_neg (not_not.mpr hsig), if_pos hplanes] at hf
    cases hf
    exact ⟨rfl, zext32_eq_setWidth _, rfl⟩
  case bitDepth =>
    intro hsig hplanes hdepth
    rw [headerTrap, if_neg (not_not.mpr hsig), if_neg (not_not.mpr hplanes), if_pos hdepth] at hf
    cases hf
    exact ⟨rfl, zext32_eq_setWidth _, rfl⟩
  case compression =>
    intro hsig hplanes hdepth hcomp
    rw [headerTrap, if_neg (not_not.mpr hsig), if_neg (not_not.mpr hplanes), if_neg (not_not.mpr hdepth),
      if_pos hcomp] at hf
    cases hf
    exact ⟨rfl, rfl, rfl⟩

end Sys2Proof.Machine
end

section
/-! SUPPORT. The geometry and clip operations one by one (spec/42_geometry_clip.md R106 to R109): the answer of each in
each of its cases, and what it writes. -/

namespace Sys2Proof.Machine

/-! ## ROWORD (R106) -/

/-- A zero height reads bottom up, as a positive one does. -/
theorem rowOrderOf_eq_bottomUp (u : Word) : rowOrderOf u = .bottomUp ↔ 0 ≤ u.toInt := by
  rw [← not_lt, ← rowOrderOf_eq_topDown]
  cases rowOrderOf u <;> simp

/-- Settles O30: the order is the sign of the raw height, the height its magnitude. -/
theorem rowordNormalisesTheHeight : Obligations.RowordNormalisesTheHeight := by
  unfold Obligations.RowordNormalisesTheHeight
  intro s
  have hbottomUp := (rowOrderOf_eq_bottomUp s.heightRaw).mpr
  exact ⟨_, rfl, fun hpos => hbottomUp hpos.le, (rowOrderOf_eq_topDown s.heightRaw).mpr,
    fun hzero => hbottomUp hzero.ge, heightMagnitude_toNat s.heightRaw, rfl⟩

/-! ## STRIDE (R107) -/

theorem execStride_negative {s : State} (h : s.widthRaw.toInt < 0) :
    execStride s = .next (s.trapped 0x20 s.widthRaw 0 s.spos) :=
  if_pos ((sint32_eq_toInt s.widthRaw).trans_lt h)

theorem execStride_nonneg {s : State} (h : 0 ≤ s.widthRaw.toInt) :
    execStride s = .next { s with
      width := s.widthRaw, rowStride := BitVec.ofNat 64 (rowStrideOf s.widthRaw.toNat), phase := .clip } :=
  if_neg (not_lt.mpr (h.trans_eq (sint32_eq_toInt s.widthRaw).symm))

/-- Settles O31: a negative width traps, any other is padded to a stride that does not wrap. -/
theorem strideChecksWidthAndPadsRows : Obligations.StrideChecksWidthAndPadsRows := by
  unfold Obligations.StrideChecksWidthAndPadsRows
  intro s
  refine ⟨execStride_negative, fun hwidth => ⟨_, execStride_nonneg hwidth, rfl, ?_⟩⟩
  obtain ⟨hdvd, hlow, hhigh⟩ := rowStrideOf_bounds s.widthRaw.toNat
  rw [rowStrideOf_toNat]
  exact ⟨rfl, hdvd, hlow, hhigh, rfl⟩

/-! ## CLIP (R108) -/

/-- A width in the range of R14 leaves room for the blank frame in 32 bits. -/
theorem frameTotalOf_toNat_of_width {w : Word} (c : Config) (h : w.toNat < 2 ^ 31) :
    (BitVec.ofNat 32 (frameTotalOf c w)).toNat = frameTotalOf c w := by
  have hblank : blankFrames c ≤ 1 := by
    unfold blankFrames
    split <;> omega
  rw [BitVec.toNat_ofNat, frameTotalOf]
  omega

theorem execClip_overCapacity {s : State} (h : s.config.maxFrames.toNat < frameTotalOf s.config s.width) :
    execClip s = .next ((clipRegisters s).trapped 0x21 (clipRegisters s).frameTotal 0 s.spos) := if_pos h

theorem execClip_fits {s : State} (h : frameTotalOf s.config s.width ≤ s.config.maxFrames.toNat) :
    execClip s = .next { clipRegisters s with row := 0, phase := .fclear } := if_neg (not_lt.mpr h)

/-- Settles O32: both registers are written exactly, then the capacity is checked. -/
theorem clipSizesTheFrameSequence : Obligations.ClipSizesTheFrameSequence := by
  unfold Obligations.ClipSizesTheFrameSequence
  intro s hwidth
  have hclip : (clipRegisters s).clipH.toNat = min s.height.toNat s.config.stripLength.toNat :=
    clippedHeight_toNat s.config s.height
  have htotal : (clipRegisters s).frameTotal.toNat = frameTotalOf s.config s.width :=
    frameTotalOf_toNat_of_width s.config hwidth
  have hsum : (clipRegisters s).frameTotal.toNat = s.width.toNat + (if s.config.loop = false then 1 else 0) := by
    rw [htotal, frameTotalOf, blankFrames_eq]
  rcases Nat.lt_or_ge s.config.maxFrames.toNat (clipRegisters s).frameTotal.toNat with hover | hfits
  · exact ⟨_, execClip_overCapacity (hover.trans_eq htotal), hclip, hsum, fun _ => rfl,
      fun hfits => absurd hfits (not_le.mpr hover)⟩
  · exact ⟨_, execClip_fits (htotal.symm.trans_le hfits), hclip, hsum, fun hover => absurd hover (not_lt.mpr hfits),
      fun _ => rfl⟩

/-! ## FCLEAR (R109) -/

/-- The image's frames lie in `FRAME` (R49), so they are zeroed and the row loop begins. -/
theorem execFclear_fits {s : State} (h : s.width.toNat ≤ s.config.maxFrames.toNat) :
    execFclear s = .next { s with
      frame := s.frame.writeBytes 0 (zeros (s.width.toNat * frameLength s.config))
      phase := if s.clipH = 0 then .blank else .rowseek } := by
  refine storeFrame_inRange beginRows ?_
  rw [zeros_length, Nat.zero_add]
  exact frames_inRange h

/-- Settles O33: the store covers the image's frames and no other address. -/
theorem fclearZeroesTheImageFrames : Obligations.FclearZeroesTheImageFrames := by
  unfold Obligations.FclearZeroesTheImageFrames
  intro s hwidth
  refine ⟨_, execFclear_fits hwidth, fun a hin => ?inside, fun a hout => ?outside, rfl⟩
  case inside => exact Memory.read_writeBytes_zeros s.frame ⟨a.zero_le, hin.trans_eq (Nat.zero_add _).symm⟩
  case outside =>
    refine Memory.read_writeBytes_outside s.frame _ (.inr ?_)
    rw [zeros_length, Nat.zero_add]
    exact hout

end Sys2Proof.Machine
end

section
/-! SUPPORT. The row decode operations one by one (spec/43_row_decode.md R116 to R118): in the row loop no stream
position wraps, so the seek target and the position of every pixel are those of the integers. -/

namespace Sys2Proof.Machine

/-! ## The row loop's positions (R110, R116) -/

theorem sourceRow_eq (s : State) :
    sourceRow s = if s.rowOrder = .bottomUp then s.height.toNat - 1 - s.row.toNat else s.row.toNat := by
  unfold sourceRow
  cases s.rowOrder <;> rfl

section
variable {s : State} {p : Phase}

/-- From `ROWSEEK` on the header, the geometry and the frames are settled. -/
theorem State.Inv.reached_fclear (h : s.Inv) (hp : s.phase = p) (hr : p.inRow) : s.Reached .fclear := by
  subst hp
  have hrank : Phase.fclear.rank < s.phase.rank ∧ s.phase ≠ .error := by
    revert hr
    cases s.phase <;> simp [Phase.inRow, Phase.rank, Phase.code]
  exact fun q hq => h.reached hrank.2 q (hq.trans hrank.1)

theorem row_lt_height (h : s.Reached .fclear) (hrow : s.row.toNat < s.clipH.toNat) : s.row.toNat < s.height.toNat := by
  obtain ⟨hclip, _⟩ := h .clip (by decide)
  omega

/-- The 64-bit seek target is the integer one (R116). -/
theorem seekTarget_toNat (h : s.Reached .fclear) (hrow : s.row.toNat < s.clipH.toNat) :
    (BitVec.ofNat 64 (seekTarget s)).toNat = seekTarget s := by
  have := seekTarget_lt h hrow
  rw [BitVec.toNat_ofNat]
  omega

end

/-! ## ROWSEEK (R116) -/

/-- Settles O34: the row lies in the image, so the seek goes to the integer target. -/
theorem rowseekSeeksTheSourceRow : Obligations.RowseekSeeksTheSourceRow := by
  unfold Obligations.RowseekSeeksTheSourceRow
  intro s hinv hphase
  obtain ⟨hrow, _⟩ := hinv.spot hphase rfl
  have hreached := hinv.reached_fclear hphase trivial
  have htarget := seekTarget_toNat hreached hrow
  rw [← sourceRow_eq]
  exact ⟨fun e he => ⟨_, htarget, seekThen_errs _ _ he⟩,
    fun hpass => ⟨_, htarget, row_lt_height hreached hrow, seekThen_passes _ _ hpass⟩⟩

/-! ## PIXRD (R117) -/

/-- Settles O35: three bytes are read, in stored order. -/
theorem pixrdReadsBlueGreenRed : Obligations.PixrdReadsBlueGreenRed := by
  unfold Obligations.PixrdReadsBlueGreenRed
  exact ⟨readRaises_of_readThen fun _ => rfl,
    fun _ _ _ _ hp hb => readThen_next latchPixel hp hb (List.cons_ne_nil _ _)⟩

/-- A read that is not served traps at the position of its first byte (R43, R44). -/
theorem readThen_traps {s : State} (n : Nat) (k : List Byte → State → Outcome)
    (h : ¬(s.requestPasses ∧ ¬s.shortOf n)) :
    ∃ (c : BitVec 8) (io : Word) (q : Pos),
      readThen n k s = .next ((s.afterRequest (.read n s.spos) q).trapped c 0 io s.spos) := by
  rcases readThen_cases n k with ⟨c, io, q, _, hx⟩ | ⟨hp, hs, _⟩
  · exact ⟨c, io, q, hx⟩
  · exact absurd ⟨hp, hs⟩ h

/-- `PIX` holds the three bytes at the position of a slice of three (R65). -/
theorem ofBytes_slice {p : Nat} {b : List Byte} (h : p + 3 ≤ b.length) :
    [some (Triple.ofBytes (slice p 3 b)).b0, some (Triple.ofBytes (slice p 3 b)).b1,
      some (Triple.ofBytes (slice p 3 b)).b2] = [b[p]?, b[p + 1]?, b[p + 2]?] := by
  have h0 : p < b.length := by omega
  have h1 : p + 1 < b.length := by omega
  have h2 : p + 2 < b.length := by omega
  simp [Triple.ofBytes, slice, List.getD_eq_getElem?_getD, List.getElem?_drop, h0, h1, h2]

/-- Settles O36: `SPOS` is the pixel's integer position and shadows the agent's, so the read answers the bytes there. -/
theorem pixelPositionFollowsTheColumn : Obligations.PixelPositionFollowsTheColumn := by
  unfold Obligations.PixelPositionFollowsTheColumn
  intro s hinv hphase
  obtain ⟨hrow, hcol, hspos⟩ := hinv.spot hphase rfl
  have hshadow : s.stream.pos = s.spos := (hinv.going hphase rfl).shadow rfl (by decide)
  have hlt := seekTarget_lt (hinv.reached_fclear hphase trivial) hrow
  have hserved : s.spos.toNat + 3 ≤ s.stream.bytes.length ↔ ¬s.shortOf 3 := by
    rw [State.shortOf, hshadow, not_lt]
  have hnext : (s.spos + BitVec.ofNat 64 3).toNat = s.spos.toNat + 3 := by
    rw [BitVec.toNat_add, BitVec.toNat_ofNat]
    omega
  rw [← sourceRow_eq]
  use s.spos
  rw [hserved]
  by_cases hread : s.requestPasses ∧ ¬s.shortOf 3
  · obtain ⟨hpass, hlong⟩ := hread
    have hserve := readThen_serves 3 latchPixel hpass hlong
    rw [hshadow] at hserve
    exact ⟨_, hspos, hserve, rfl, fun _ => ⟨rfl, hnext, ofBytes_slice (hserved.mpr hlong)⟩,
      fun hno => absurd ⟨hpass, hlong⟩ hno⟩
  · obtain ⟨c, io, q, htrap⟩ := readThen_traps 3 latchPixel hread
    exact ⟨_, hspos, htrap, rfl, fun hyes => absurd hyes hread, fun _ => ⟨rfl, rfl, rfl⟩⟩

/-! ## ROWEND (R118) -/

/-- Settles O37: the row counter does not wrap, so the comparison is of the new `ROW`. -/
theorem rowendChoosesNextRowOrEnd : Obligations.RowendChoosesNextRowOrEnd := by
  unfold Obligations.RowendChoosesNextRowOrEnd
  intro s hrow
  have hnext : (BitVec.ofNat 32 (s.row.toNat + 1)).toNat = s.row.toNat + 1 := by
    rw [BitVec.toNat_ofNat, Nat.mod_eq_of_lt hrow]
  refine ⟨_, rfl, hnext, ?_⟩
  rw [hnext]

end Sys2Proof.Machine
end

section
/-! SUPPORT. The colour and frame store operations one by one (spec/44_color_reorder_store.md R126 to R131): look-up and
reorder act on a pixel slot by slot and so commute, a legal colour table is a rounding that never needs its clamp, and the
pixel store touches the three bytes of its pixel. -/

namespace Sys2Proof.Machine

/-! ## GAMMA (R126) -/

/-- Settles O38: `GAMMA` is three independent look-ups in one table. -/
theorem gammaLooksUpEachChannel : Obligations.GammaLooksUpEachChannel := by
  unfold Obligations.GammaLooksUpEachChannel
  exact fun _ => rfl

/-! ## REORD (R129) -/

/-- The code of a channel is its offset in the triple (R15, R69). -/
theorem Triple.bytes_getElem?_channelCode (t : Triple) (ch : Channel) :
    t.bytes[channelCode ch]? = some (t.channel ch) := by
  cases ch <;> rfl

theorem Triple.bytes_reordered_getElem? (c : Config) (t : Triple) {k : Nat} (h : k < 3) :
    (t.reordered c).bytes[k]? = t.bytes[orderAt c k]? := by
  have hslot : ∀ ch, some (t.channel ch) = t.bytes[channelCode ch]? := fun ch => (t.bytes_getElem?_channelCode ch).symm
  match k, h with
  | 0, _ => exact hslot c.order.slot0
  | 1, _ => exact hslot c.order.slot1
  | 2, _ => exact hslot c.order.slot2

/-- Settles O39: slot `k` takes the channel whose code `ORDER[k]` is. -/
theorem reordPermutesTheChannels : Obligations.ReordPermutesTheChannels := by
  unfold Obligations.ReordPermutesTheChannels
  exact fun s => ⟨_, rfl, fun _ hk => s.cor.bytes_reordered_getElem? s.config hk, rfl⟩

/-! ## GAMMA and REORD commute (R131) -/

theorem Triple.bytes_corrected (c : Config) (t : Triple) : (t.corrected c).bytes = t.bytes.map (lutAt c) := rfl

theorem Triple.channel_corrected (c : Config) (t : Triple) (ch : Channel) :
    (t.corrected c).channel ch = lutAt c (t.channel ch) := by
  cases ch <;> rfl

/-- The one table serves every channel, so it does not matter which channel a byte is looked up for. -/
theorem Triple.reordered_corrected (c : Config) (t : Triple) :
    (t.corrected c).reordered c = (t.reordered c).corrected c := by
  simp only [Triple.reordered, Triple.channel_corrected]
  rfl

/-- Settles O40: both orders leave `LUT[PIX[ORDER[k]]]` in slot `k`. -/
theorem correctionAndReorderCommute : Obligations.CorrectionAndReorderCommute := by
  unfold Obligations.CorrectionAndReorderCommute
  intro s
  refine ⟨_, _, rfl, rfl, s.pix.reordered_corrected s.config, fun k hk => ?_⟩
  calc ((s.pix.corrected s.config).reordered s.config).bytes[k]?
    _ = (s.pix.corrected s.config).bytes[orderAt s.config k]? := Triple.bytes_reordered_getElem? _ _ hk
    _ = s.pix.bytes[orderAt s.config k]?.map (lutAt s.config) := by rw [Triple.bytes_corrected, List.getElem?_map]

/-! ## PIXST (R130) -/

/-- Row and column in bounds, so the pixel lies in `FRAME` (R49) and is stored. -/
theorem execPixst_fits {s : State} (hrow : s.row.toNat < s.config.stripLength.toNat)
    (hcol : s.col.toNat < s.config.maxFrames.toNat) :
    execPixst s = .next { s with
      frame := s.frame.writeBytes (pixelAddress s) s.out.bytes
      col := BitVec.ofNat 32 (s.col.toNat + 1)
      phase := if s.col.toNat + 1 < s.width.toNat then .pixrd else .rowend } := by
  have hstrip : stripPosition s < s.config.stripLength.toNat := by
    unfold stripPosition
    omega
  exact storeFrame_inRange nextPixel (pixel_inRange hcol hstrip)

/-- Settles O41: the store covers the pixel's three bytes, and the column does not wrap. -/
theorem pixstStoresThePixel : Obligations.PixstStoresThePixel := by
  unfold Obligations.PixstStoresThePixel
  intro s hrow hcol hwrap
  have hnext : (BitVec.ofNat 32 (s.col.toNat + 1)).toNat = s.col.toNat + 1 := by
    rw [BitVec.toNat_ofNat, Nat.mod_eq_of_lt hwrap]
  refine ⟨_, execPixst_fits hrow hcol, fun _ hk => Memory.read_writeBytes_inside s.frame s.out.bytes hk,
    fun _ ha => Memory.read_writeBytes_outside s.frame s.out.bytes ha, rfl, hnext, ?_⟩
  rw [hnext]

/-! ## The colour table (R127, R128) -/

/-- The number R127 rounds to get entry `v` of `lutgen(g, b)`. -/
noncomputable def lutValue (g b : ℝ) (v : ℕ) : ℝ := ((v : ℝ) / 255) ^ g * b * 255

section
variable {g b : ℝ}

theorem lutValue_zero (b : ℝ) (hg : 0 < g) : lutValue g b 0 = (0 : ℕ) := by
  simp [lutValue, Real.zero_rpow hg.ne']

theorem lutValue_white (g b : ℝ) : lutValue g b 255 = 255 * b := by
  simp [lutValue, mul_comm]

theorem lutValue_dark (g : ℝ) (v : ℕ) : lutValue g 0 v = (0 : ℕ) := by
  simp [lutValue]

theorem lutValue_linear (v : ℕ) : lutValue 1 1 v = v := by
  simp [lutValue]

/-- On `[0, 1]` the power with a positive exponent is monotone, and the brightness scales it by a nonnegative factor. -/
theorem lutValue_mono (hg : 0 < g) (hb : 0 ≤ b) : Monotone (lutValue g b) := by
  intro u v huv
  unfold lutValue
  gcongr

theorem lutValue_nonneg (g : ℝ) (hb : 0 ≤ b) (v : ℕ) : 0 ≤ lutValue g b v := by
  unfold lutValue
  positivity

variable {t : Vector Byte 256}

/-- With a legal gamma and brightness every value lies in `[0, 255]`, so the clamp of R127 does nothing. -/
theorem toNat_lutgen (hg : 0 < g) (hb : 0 ≤ b) (hb1 : b ≤ 1) (ht : Config.IsLutgen g b t) (v : Fin 256) :
    (t[v].toNat : ℤ) = ⌊lutValue g b v + 1 / 2⌋ := by
  have hlow : 0 ≤ ⌊lutValue g b v + 1 / 2⌋ := Int.floor_nonneg.mpr (by linarith [lutValue_nonneg g hb v])
  have hhigh : ⌊lutValue g b v + 1 / 2⌋ < 256 := by
    have hwhite := lutValue_mono hg hb (Nat.le_of_lt_succ v.isLt)
    rw [lutValue_white] at hwhite
    rw [Int.floor_lt]
    push_cast
    linarith
  have hclamp : (t[v].toNat : ℤ) = min 255 (max 0 ⌊lutValue g b v + 1 / 2⌋) := ht v
  omega

/-- A value that is a natural number needs no rounding. -/
theorem toNat_lutgen_of_natCast (hg : 0 < g) (hb : 0 ≤ b) (hb1 : b ≤ 1) (ht : Config.IsLutgen g b t) {v : Fin 256}
    {n : ℕ} (hv : lutValue g b v = n) : t[v].toNat = n := by
  have hround := toNat_lutgen hg hb hb1 ht v
  rw [hv, ← round_eq, round_natCast] at hround
  exact_mod_cast hround

end

/-- Settles O42: each property is one of the rounded value, carried through a clamp that does nothing. -/
theorem colourTableProperties : Obligations.ColourTableProperties := by
  unfold Obligations.ColourTableProperties
  intro g b t hg hb hb1 ht
  have hentry := toNat_lutgen hg hb hb1 ht
  have hexact : ∀ {v : Fin 256} {n : ℕ}, lutValue g b v = n → t[v].toNat = n :=
    toNat_lutgen_of_natCast hg hb hb1 ht
  refine ⟨?black, ?white, ?monotone, ?bounded, ?dark, ?identity⟩
  case black => exact BitVec.eq_of_toNat_eq (hexact (v := 0) (lutValue_zero b hg))
  case white =>
    rintro rfl
    exact BitVec.eq_of_toNat_eq (hexact (v := 255) (n := 255) ((lutValue_white g 1).trans (by norm_num)))
  case monotone =>
    intro u v huv
    have hfloor : (t[u].toNat : ℤ) ≤ t[v].toNat := by
      rw [hentry, hentry]
      exact Int.floor_mono (add_le_add_left (lutValue_mono hg hb huv) _)
    exact BitVec.le_def.mpr (by exact_mod_cast hfloor)
  case bounded =>
    intro v
    rw [hentry, ← lutValue_white g b]
    exact Int.floor_mono (add_le_add_left (lutValue_mono hg hb (Nat.le_of_lt_succ v.isLt)) _)
  case dark =>
    rintro rfl v
    exact BitVec.eq_of_toNat_eq (hexact (lutValue_dark g v))
  case identity =>
    rintro rfl rfl v
    exact hexact (lutValue_linear v)

end Sys2Proof.Machine
end

section
/-! SUPPORT. The end of a load, operation by operation (spec/45_frame_finish.md R136, R137): the dark frame behind the
image, the published sequence, and the host's read of its last frame (R139 c). -/

namespace Sys2Proof.Machine

/-! ## FINISH (R137) -/

/-- Settles O44: `FINISH` is the two assignments of R137. -/
theorem finishPublishesTheSequence : Obligations.FinishPublishesTheSequence := by
  unfold Obligations.FinishPublishesTheSequence
  exact fun _ => rfl

/-! ## BLANK (R136) -/

theorem execBlank_loop {s : State} (h : s.config.loop = true) : execBlank s = .next { s with phase := .finish } :=
  if_pos h

/-- Without looping the frame behind the image lies in `FRAME` (R49), so it is zeroed. -/
theorem execBlank_fits {s : State} (hl : s.config.loop = false) (h : s.width.toNat + 1 ≤ s.config.maxFrames.toNat) :
    execBlank s = .next { s with
      frame := s.frame.writeBytes (s.width.toNat * frameLength s.config) (zeros (frameLength s.config))
      phase := .finish } := by
  have hx : execBlank s = storeFrame (s.width.toNat * frameLength s.config) (zeros (frameLength s.config))
    (goto .finish) s := if_neg (by simp [hl])
  refine hx.trans (storeFrame_inRange _ ?_)
  rw [zeros_length]
  exact frame_inRange h

/-- Settles O43: the store covers the frame behind the image and no other address. -/
theorem blankAppendsTheDarkFrame : Obligations.BlankAppendsTheDarkFrame := by
  unfold Obligations.BlankAppendsTheDarkFrame
  intro s
  refine ⟨execBlank_loop, fun hl hwidth => ⟨_, execBlank_fits hl hwidth, fun k hk => ?inside, fun a ha => ?outside, rfl⟩⟩
  case inside => exact Memory.read_writeBytes_zeros s.frame ⟨Nat.le_add_right _ _, Nat.add_lt_add_left hk _⟩
  case outside =>
    refine Memory.read_writeBytes_outside s.frame _ (ha.imp_right fun hle => ?_)
    rw [zeros_length]
    exact (Nat.succ_mul _ _).symm.trans_le hle

/-! ## The last frame (R82, R139 c) -/

/-- A finished load has published the image's frames, and the dark one unless looping (R108, R137). -/
theorem State.Inv.frameCount_done {s : State} (h : s.Inv) (hp : s.phase = .done) :
    s.frameCount.toNat = s.width.toNat + blankFrames s.config := by
  have hclip : s.phase.past 13 := hp ▸ ⟨by decide, by decide⟩
  rw [h.countPublished hp, (h.clipSet hclip).2.1]

/-- Settles O7: the last frame is the one `BLANK` zeroed, and an `FRD` of it answers its bytes. -/
theorem lastFrameIsDarkWithoutLoop : Obligations.LastFrameIsDarkWithoutLoop := by
  unfold Obligations.LastFrameIsDarkWithoutLoop
  intro s h hp hl
  have hcount := h.frameCount_done hp
  rw [blankFrames_eq, if_pos hl] at hcount
  have hblank : s.phase.past 21 := hp ▸ ⟨by decide, by decide⟩
  obtain ⟨v, hlen, hv, hx⟩ := execFrd_published (f := s.frameCount.toNat - 1) h ⟨hp, by omega⟩
  have hlast : s.frameCount.toNat - 1 = s.width.toNat := by omega
  have hzero : v = List.replicate (frameLength s.config) 0 := by
    refine List.eq_replicate_iff.mpr ⟨hlen, fun b hb => ?_⟩
    obtain ⟨i, hi, rfl⟩ := List.getElem_of_mem hb
    have hread := hv i (hlen ▸ hi)
    rw [hlast, h.blankZero hblank hl i (hlen ▸ hi), List.getElem?_eq_getElem hi] at hread
    exact (Option.some.inj hread).symm
  exact ⟨by omega, hx.trans (by rw [hzero]; rfl)⟩

end Sys2Proof.Machine
end

section
/-! SUPPORT. The transition table (spec/45_frame_finish.md R140): where every operation of the sequencer leads and how the
two loop counters move, and the bound on the steps of a load that follows from it (spec/70_reset_and_hazards.md R177). -/

namespace Sys2Proof.Machine

/-! ## Where an operation leads (R140) -/

theorem LeadsTo.phase {k : State → Outcome} {q : Phase} {s t : State} (h : LeadsTo k q) (ht : k s = .next t) :
    t.phase = q ∨ t.phase = .error := by
  obtain ⟨u, hu, hq⟩ := h s
  cases hu.symm.trans ht
  exact hq

/-- The sequencer has gone from `s` to phase `q` with the counters at `row` and `col`; the sizes of the loops stand. -/
structure State.MovedTo (s : State) (q : Phase) (row col : Word) (t : State) : Prop where
  phase : t.phase = q
  row : t.row = row
  col : t.col = col
  width : t.width = s.width
  clipH : t.clipH = s.clipH

section
variable {s t : State}

/-- A header operation leads to the next one, or traps. -/
theorem exec_headerOperation_leads {p : Phase} {i : Instr} (ho : p.operation = some i) (hp : p.rank ≤ 10)
    (ht : exec i s = .next t) :
    ∃ q, p.successors = [q, .error] ∧ q.rank = p.rank + 1 ∧ (t.phase = q ∨ t.phase = .error) := by
  cases p with
  | idle => cases ho
  | hseek => cases ho; exact ⟨_, rfl, rfl, execHseek_leadsTo.phase ht⟩
  | rdsig => cases ho; exact ⟨_, rfl, rfl, execRdsig_leadsTo.phase ht⟩
  | skipa => cases ho; exact ⟨_, rfl, rfl, execSkipa_leadsTo.phase ht⟩
  | rdoff => cases ho; exact ⟨_, rfl, rfl, execRdoff_leadsTo.phase ht⟩
  | skipb => cases ho; exact ⟨_, rfl, rfl, execSkipb_leadsTo.phase ht⟩
  | rdwid => cases ho; exact ⟨_, rfl, rfl, execRdwid_leadsTo.phase ht⟩
  | rdhgt => cases ho; exact ⟨_, rfl, rfl, execRdhgt_leadsTo.phase ht⟩
  | rdpln => cases ho; exact ⟨_, rfl, rfl, execRdpln_leadsTo.phase ht⟩
  | rdbpp => cases ho; exact ⟨_, rfl, rfl, execRdbpp_leadsTo.phase ht⟩
  | rdcmp => cases ho; exact ⟨_, rfl, rfl, execRdcmp_leadsTo.phase ht⟩
  | _ => exact absurd hp (by decide)

theorem execStride_leads (ht : execStride s = .next t) : t.phase = .clip ∨ t.phase = .error := by
  unfold execStride at ht
  split at ht <;> cases ht
  · exact .inr rfl
  · exact .inl rfl

theorem execClip_leads (ht : execClip s = .next t) : t.phase = .fclear ∨ t.phase = .error := by
  unfold execClip at ht
  split at ht <;> cases ht
  · exact .inr rfl
  · exact .inl rfl

theorem execFclear_moves (ht : execFclear s = .next t) :
    s.MovedTo (if s.clipH = 0 then .blank else .rowseek) s.row s.col t := by
  cases (storeFrame_cases ht).2
  exact ⟨rfl, rfl, rfl, rfl, rfl⟩

theorem execRowseek_moves (ht : execRowseek s = .next t) :
    s.MovedTo (if s.width = 0 then .rowend else .pixrd) s.row 0 t ∨ t.phase = .error := by
  rcases seekThen_next ht with ⟨e, _, rfl⟩ | ⟨_, hk⟩
  · exact .inr rfl
  · cases hk
    exact .inl ⟨rfl, rfl, rfl, rfl, rfl⟩

theorem execPixrd_moves (ht : execPixrd s = .next t) : s.MovedTo .gamma s.row s.col t ∨ t.phase = .error := by
  rcases readThen_answers ht with ⟨c, io, p, _, rfl⟩ | ⟨_, _, _, hk⟩
  · exact .inr rfl
  · cases hk
    exact .inl ⟨rfl, rfl, rfl, rfl, rfl⟩

theorem execGamma_moves (ht : execGamma s = .next t) : s.MovedTo .reord s.row s.col t := by
  cases ht
  exact ⟨rfl, rfl, rfl, rfl, rfl⟩

theorem execReord_moves (ht : execReord s = .next t) : s.MovedTo .pixst s.row s.col t := by
  cases ht
  exact ⟨rfl, rfl, rfl, rfl, rfl⟩

theorem execPixst_moves (ht : execPixst s = .next t) :
    s.MovedTo (if s.col.toNat + 1 < s.width.toNat then .pixrd else .rowend) s.row
      (BitVec.ofNat 32 (s.col.toNat + 1)) t := by
  cases (storeFrame_cases ht).2
  exact ⟨rfl, rfl, rfl, rfl, rfl⟩

theorem execRowend_moves (ht : execRowend s = .next t) :
    s.MovedTo (if s.row.toNat + 1 < s.clipH.toNat then .rowseek else .blank)
      (BitVec.ofNat 32 (s.row.toNat + 1)) s.col t := by
  cases ht
  exact ⟨rfl, rfl, rfl, rfl, rfl⟩

theorem execBlank_leads (ht : execBlank s = .next t) : t.phase = .finish := by
  unfold execBlank at ht
  split at ht
  · cases ht
    rfl
  · cases (storeFrame_cases ht).2
    rfl

/-- Every operation leads to a successor of its phase (R140). -/
theorem exec_operation_successors {p : Phase} {i : Instr} (ho : p.operation = some i) (ht : exec i s = .next t) :
    t.phase ∈ p.successors := by
  have either : ∀ {x y q : Phase}, q = x ∨ q = y → q ∈ [x, y] := fun h => by simpa using h
  by_cases hr : p.rank ≤ 10
  · obtain ⟨q, hq, _, hp⟩ := exec_headerOperation_leads ho hr ht
    exact hq ▸ either hp
  · cases p with
    | roword | finish => cases ho; cases ht; exact List.mem_singleton.mpr rfl
    | stride => cases ho; exact either (execStride_leads ht)
    | clip => cases ho; exact either (execClip_leads ht)
    | fclear =>
      cases ho
      rw [(execFclear_moves ht).phase]
      split <;> decide
    | rowseek =>
      cases ho
      rcases execRowseek_moves ht with hm | he
      · rw [hm.phase]
        split <;> decide
      · rw [he]
        decide
    | pixrd => cases ho; exact either ((execPixrd_moves ht).imp_left State.MovedTo.phase)
    | gamma => cases ho; exact List.mem_singleton.mpr (execGamma_moves ht).phase
    | reord => cases ho; exact List.mem_singleton.mpr (execReord_moves ht).phase
    | pixst =>
      cases ho
      rw [(execPixst_moves ht).phase]
      split <;> decide
    | rowend =>
      cases ho
      rw [(execRowend_moves ht).phase]
      split <;> decide
    | blank => cases ho; exact List.mem_singleton.mpr (execBlank_leads ht)
    | done | error => cases ho
    | _ => exact absurd (by decide) hr

end

/-- The resting phases are their own successors. -/
theorem self_mem_successors {p : Phase} (h : p.operation = none) : p ∈ p.successors := by
  cases p with
  | idle | done | error => decide
  | _ => cases h

/-- Settles O47: with no input due the step is the sequencer's turn, an operation or the stutter of a resting phase. -/
theorem sequencerFollowsTheTransitionTable : Obligations.SequencerFollowsTheTransitionTable := by
  unfold Obligations.SequencerFollowsTheTransitionTable
  intro s t hs hi
  have hturn : nextEvent s = sequencerStep s := by
    simp only [nextEvent, hi]
  have ht := hturn.symm.trans (step_next hs).2
  rcases sequencerStep_cases s with ⟨i, ho, hx⟩ | ⟨ho, hx⟩
  · exact exec_operation_successors ho (hx.symm.trans ht)
  · cases hx.symm.trans ht
    exact self_mem_successors ho

/-! ## The steps a load has left (R140, R177) -/

/-- The steps of one display row: its seek, four per pixel, and its end. -/
def rowSteps (width : Nat) : Nat := 2 + 4 * width

/-- The most steps a load has left from phase `p` on, if nothing traps; before `CLIP` has completed, for the largest image
that it lets pass. -/
def State.stepsLeft (s : State) : Phase → Nat
  | .idle | .done | .error => 0
  | .fclear => 3 + s.clipH.toNat * rowSteps s.width.toNat
  | .rowseek => 2 + (s.clipH.toNat - s.row.toNat) * rowSteps s.width.toNat
  | .pixrd => 3 + 4 * (s.width.toNat - s.col.toNat) + (s.clipH.toNat - (s.row.toNat + 1)) * rowSteps s.width.toNat
  | .gamma => 2 + 4 * (s.width.toNat - s.col.toNat) + (s.clipH.toNat - (s.row.toNat + 1)) * rowSteps s.width.toNat
  | .reord => 1 + 4 * (s.width.toNat - s.col.toNat) + (s.clipH.toNat - (s.row.toNat + 1)) * rowSteps s.width.toNat
  | .pixst => 4 * (s.width.toNat - s.col.toNat) + (s.clipH.toNat - (s.row.toNat + 1)) * rowSteps s.width.toNat
  | .rowend => 3 + (s.clipH.toNat - (s.row.toNat + 1)) * rowSteps s.width.toNat
  | .blank => 2
  | .finish => 1
  | p => 17 - p.rank + s.config.stripLength.toNat * rowSteps s.config.maxFrames.toNat

/-- The steps of a row still to begin. -/
theorem rowsLeft_succ {r rows : Nat} (h : r < rows) (k : Nat) : (rows - r) * k = (rows - (r + 1)) * k + k := by
  rw [← Nat.succ_mul, ← Nat.sub_sub, Nat.succ_eq_add_one, Nat.sub_add_cancel (Nat.sub_pos_of_lt h)]

section
variable {s t : State} {p : Phase} {i : Instr}

/-- Before `CLIP` has completed, the steps left are those of the largest image. -/
theorem stepsLeft_beforeClip (s : State) (hp : 1 ≤ p.rank) (hr : p.rank ≤ 13) :
    s.stepsLeft p = 17 - p.rank + s.config.stripLength.toNat * rowSteps s.config.maxFrames.toNat := by
  cases p with
  | idle => exact absurd hp (by decide)
  | fclear | rowseek | pixrd | gamma | reord | pixst | rowend | blank | finish | done | error =>
    exact absurd hr (by decide)
  | _ => rfl

/-- A busy sequencer has a step left. -/
theorem stepsLeft_pos (h : s.Going p) (hb : isBusy p = true) : 0 < s.stepsLeft p := by
  cases p with
  | idle | done | error => cases hb
  | blank => exact Nat.two_pos
  | finish => exact Nat.one_pos
  | pixrd | gamma | reord => exact Nat.add_pos_left (Nat.add_pos_left (by decide) _) _
  | pixst =>
    have hcol : s.col.toNat < s.width.toNat := h.spot.2.1
    exact Nat.add_pos_left (by omega) _
  | _ => exact Nat.add_pos_left (by decide) _

/-- An operation before `CLIP` takes one of the steps left. -/
theorem stepsLeft_lt_beforeClip {q : Phase} (hq : q.rank = p.rank + 1) (hp : 1 ≤ p.rank) (hr : q.rank ≤ 13)
    (hc : t.config = s.config) : t.stepsLeft q < s.stepsLeft p := by
  rw [stepsLeft_beforeClip t (by omega) hr, stepsLeft_beforeClip s hp (by omega), hc]
  omega

/-- What `CLIP` lets pass is no larger than the largest image. -/
theorem stepsLeft_lt_clip (ht : t.Inv) (hp : t.phase = .fclear) (hc : t.config = s.config) :
    t.stepsLeft .fclear < s.stepsLeft .clip := by
  obtain ⟨hframes, hrows⟩ := State.Reached.clip_bounds (hp ▸ ht.reached (by simp [hp]))
  have hrow : rowSteps t.width.toNat ≤ rowSteps t.config.maxFrames.toNat := by
    unfold rowSteps
    omega
  have hall := Nat.mul_le_mul hrows hrow
  rw [stepsLeft_beforeClip s (by decide) (by decide), ← hc]
  exact Nat.lt_of_lt_of_le (Nat.add_lt_add_right (by decide) _) (Nat.add_le_add_left hall 4)

/-- The steps left depend in the row loop on the two counters and the sizes of the loops only. -/
theorem State.MovedTo.stepsLeft {q : Phase} {row col : Word} (h : s.MovedTo q row col t) (hq : 14 ≤ q.rank) :
    t.stepsLeft t.phase = { s with row := row, col := col }.stepsLeft q := by
  obtain ⟨rfl, rfl, rfl, hw, hh⟩ := h
  generalize t.phase = p at hq
  cases p with
  | fclear | rowseek | pixrd | gamma | reord | pixst | rowend | blank | finish | done | error =>
    simp only [State.stepsLeft, hw, hh]
  | _ => exact absurd hq (by decide)

/-- A trap leaves no step. -/
theorem stepsLeft_lt_of_leads {a : Prop} (h : s.Going p) (hb : isBusy p = true) (ht : a ∨ t.phase = .error)
    (ha : a → t.stepsLeft t.phase < s.stepsLeft p) : t.stepsLeft t.phase < s.stepsLeft p := by
  rcases ht with h' | he
  · exact ha h'
  · rw [he]
    exact stepsLeft_pos h hb

/-- An operation of the row loop takes one of the steps left, or traps. -/
theorem stepsLeft_lt_rowLoop (h : s.Going p) (ho : p.operation = some i) (hr : p.inRow) (ht : exec i s = .next t) :
    t.stepsLeft t.phase < s.stepsLeft p := by
  have hrow := spot_inRow h.spot hr
  have hrows := rowsLeft_succ hrow (rowSteps s.width.toNat)
  have hsteps : rowSteps s.width.toNat = 2 + 4 * s.width.toNat := rfl
  cases p with
  | rowseek =>
    cases ho
    refine stepsLeft_lt_of_leads h rfl (execRowseek_moves ht) fun hm => ?_
    rw [hm.stepsLeft (by split <;> decide)]
    split <;> simp only [State.stepsLeft, hrows] <;> omega
  | pixrd =>
    cases ho
    refine stepsLeft_lt_of_leads h rfl (execPixrd_moves ht) fun hm => ?_
    rw [hm.stepsLeft (by decide)]
    exact Nat.add_lt_add_right (Nat.add_lt_add_right (by decide) _) _
  | gamma =>
    cases ho
    rw [(execGamma_moves ht).stepsLeft (by decide)]
    exact Nat.add_lt_add_right (Nat.add_lt_add_right (by decide) _) _
  | reord =>
    cases ho
    rw [(execReord_moves ht).stepsLeft (by decide)]
    exact Nat.add_lt_add_right (Nat.lt_add_of_pos_left (by decide)) _
  | pixst =>
    cases ho
    have hcol : s.col.toNat < s.width.toNat := h.spot.2.1
    rw [(execPixst_moves ht).stepsLeft (by split <;> decide)]
    split <;> simp only [State.stepsLeft, toNat_succ_of_lt hcol] <;> omega
  | rowend =>
    cases ho
    rw [(execRowend_moves ht).stepsLeft (by split <;> decide)]
    split <;> simp only [State.stepsLeft, toNat_succ_of_lt hrow] <;> omega
  | _ => exact hr.elim

/-- Every operation takes one of the steps left, or traps. -/
theorem stepsLeft_lt (h : s.Inv) (hp : s.phase = p) (ho : p.operation = some i) (ht : exec i s = .next t) :
    t.stepsLeft t.phase < s.stepsLeft p := by
  have hb := isBusy_of_operation ho
  have hg := h.going hp hb
  have hconfig := (exec_operation_kept ho ht).config
  by_cases hr : p.rank ≤ 10
  · obtain ⟨q, _, hq, hto⟩ := exec_headerOperation_leads ho hr ht
    have hpos : 1 ≤ p.rank := Nat.pos_of_ne_zero fun h0 => by
      cases rank_injective (p := p) (q := .idle) h0
      cases ho
    exact stepsLeft_lt_of_leads hg hb hto fun he => he ▸ stepsLeft_lt_beforeClip (he ▸ hq) hpos (by omega) hconfig
  · cases p with
    | roword =>
      cases ho; cases ht
      exact stepsLeft_lt_beforeClip (p := .roword) (q := .stride) rfl (by decide) (by decide) rfl
    | stride =>
      cases ho
      refine stepsLeft_lt_of_leads hg hb (execStride_leads ht) fun he => ?_
      rw [he]
      exact stepsLeft_lt_beforeClip rfl (by decide) (by decide) hconfig
    | clip =>
      have hinv := exec_operation_inv h hp ho ht
      cases ho
      refine stepsLeft_lt_of_leads hg hb (execClip_leads ht) fun he => ?_
      rw [he]
      exact stepsLeft_lt_clip hinv he hconfig
    | fclear =>
      cases ho
      have hrow : s.row.toNat = 0 := (word_zero_iff _).mp hg.spot.1
      rw [(execFclear_moves ht).stepsLeft (by split <;> decide)]
      split <;> simp only [State.stepsLeft, hrow, Nat.sub_zero] <;> omega
    | rowseek | pixrd | gamma | reord | pixst | rowend => exact stepsLeft_lt_rowLoop hg ho trivial ht
    | blank =>
      cases ho
      rw [execBlank_leads ht]
      exact Nat.one_lt_two
    | finish =>
      cases ho; cases ht
      exact Nat.one_pos
    | done | error => cases ho
    | _ => exact absurd (by decide) hr

end

/-- Nothing leads back to `IDLE`. -/
theorem idle_notMem_successors {p : Phase} {i : Instr} (ho : p.operation = some i) : Phase.idle ∉ p.successors := by
  cases p with
  | idle => cases ho
  | _ => decide

/-- A busy phase names an operation (R11). -/
theorem operation_of_isBusy {p : Phase} (h : isBusy p = true) : ∃ i, p.operation = some i := by
  cases p with
  | idle | done | error => cases h
  | _ => exact ⟨_, rfl⟩

/-- A load under way ends within the steps it has left. -/
theorem State.Inv.ends {n : Nat} {s : State} (h : s.Inv) (hi : s.inputs = []) (hp : s.phase ≠ .idle)
    (hn : s.stepsLeft s.phase ≤ n) :
    ∃ k t, k ≤ n ∧ Host.Core.run Sys2Proof.core k s = .next t ∧ (t.phase = .done ∨ t.phase = .error) := by
  induction n generalizing s with
  | zero =>
    refine ⟨0, s, Nat.le_refl 0, rfl, ?_⟩
    by_contra hrest
    have hb : isBusy s.phase = true := (isBusy_iff _).mpr ⟨hp, not_or.mp hrest⟩
    exact absurd hn (Nat.not_le_of_lt (stepsLeft_pos (h.going rfl hb) hb))
  | succ n ih =>
    by_cases hrest : s.phase = .done ∨ s.phase = .error
    · exact ⟨0, s, Nat.zero_le _, rfl, hrest⟩
    · obtain ⟨i, ho⟩ := operation_of_isBusy ((isBusy_iff _).mpr ⟨hp, not_or.mp hrest⟩)
      obtain ⟨t, ht⟩ := exec_operation_goesOn h rfl ho
      have hs := (step_operation h.legal hi ho).trans ht
      have hidle : t.phase ≠ .idle := fun he => idle_notMem_successors ho (he ▸ exec_operation_successors ho ht)
      have hlt := stepsLeft_lt h rfl ho ht
      obtain ⟨k, u, hk, hrun, hu⟩ := ih (exec_operation_inv h rfl ho ht) ((exec_operation_kept ho ht).inputs.trans hi)
        hidle (by omega)
      exact ⟨k + 1, u, Nat.succ_le_succ hk, (run_next hs).trans hrun, hu⟩

/-- Settles O58: from `HSEEK` the steps left are the bound of R140 for the largest image. -/
theorem everyLoadEnds : Obligations.EveryLoadEnds := by
  unfold Obligations.EveryLoadEnds
  intro s h hp hi
  refine h.ends hi (by simp [hp]) ?_
  rw [hp, stepsLeft_beforeClip s (by decide) (by decide)]
  exact Nat.le_refl _

end Sys2Proof.Machine
end

section
/-! SUPPORT. A load that meets a cause of R138 (spec/45_frame_finish.md, spec/60_exceptions.md R146, R151): the header's
ten operations end in the trap of its first failing field or go on to the geometry, which traps on a negative width or on
too many frames. -/

namespace Sys2Proof.Machine

/-! ## The first cause (R138, R151) -/

/-- The header's first failing field is the load's first cause. -/
theorem loadCause_of_headerTrap (c : Config) {b : List Byte} {f : FieldTrap}
    (h : headerTrap (Header.ofBytes b) = some f) : loadCause c b = some (f.cause, f.value) := by
  simp only [headerTrap, loadCause] at h ⊢
  split_ifs at h ⊢ <;> cases h <;> rfl

/-- An accepted header leaves the causes of the geometry. -/
theorem loadCause_of_accepted (c : Config) {b : List Byte} (h : headerTrap (Header.ofBytes b) = none) :
    loadCause c b =
      if (Header.ofBytes b).width.toInt < 0 then some (.geoWidthNegative, (Header.ofBytes b).width)
      else if c.maxFrames.toNat < frameTotalOf c (Header.ofBytes b).width then
        some (.capFrames, BitVec.ofNat 32 (frameTotalOf c (Header.ofBytes b).width))
      else none := by
  simp only [headerTrap] at h
  split_ifs at h with hsig hplanes hdepth hcomp
  simp only [loadCause, hsig, hplanes, hdepth, hcomp, if_false]
  rfl

/-- A load has ended in `t` with the cause `c` and the value `v`: `FRAME` is `m`, no request beyond the header's was made. -/
structure EndedIn (m : Memory) (c : Cause) (v : Word) (t : State) : Prop where
  phase : t.phase = .error
  errCode : t.errCode = c.code
  errValue : t.errValue = v
  errIo : t.errIo = 0
  frameCount : t.frameCount = 0
  frame : t.frame = m
  trace : t.trace <+: headerTrace

theorem endedIn_trapped {s : State} (c : Cause) (v : Word) (p : Pos) (h : s.trace <+: headerTrace) :
    EndedIn s.frame c v (s.trapped c.code v 0 p) := ⟨rfl, rfl, rfl, rfl, rfl, rfl, h⟩

/-! ## The header (R101) -/

theorem bytes_eq_header_append {b : List Byte} (h : 34 ≤ b.length) :
    b = (Header.ofBytes b).bytes ++ b.drop 34 := by
  rw [← Header.ofBytes_take, Header.bytes_ofBytes (by rw [List.length_take]; omega), List.take_append_drop]

section
variable {s : State}

/-- Ten steps from the start of a load read its header. -/
theorem State.atLoadStart.run_header (h : s.atLoadStart) (hl : 34 ≤ s.stream.bytes.length) :
    Host.Core.run Sys2Proof.core 10 s = .next
      (s.parsed (Header.ofBytes s.stream.bytes) 10 34 .roword (headerTrap (Header.ofBytes s.stream.bytes))) := by
  obtain ⟨hinv, hphase, hinputs, hscript, _⟩ := h
  exact (run_headerOperations hinv.legal hphase hinputs).trans
    (headerOperations_parsed (bytes_eq_header_append hl) (by simp [hscript]))

/-- A failing field ends the load. -/
theorem State.atLoadStart.header_traps (h : s.atLoadStart) (hl : 34 ≤ s.stream.bytes.length) {f : FieldTrap}
    (hf : headerTrap (Header.ofBytes s.stream.bytes) = some f) : Reaches 10 s (EndedIn s.frame f.cause f.value) := by
  have hrun := h.run_header hl
  rw [hf] at hrun
  obtain ⟨_, _, _, _, htrace⟩ := h
  have hrequests : s.trace ++ headerTrace.take f.requests <+: headerTrace := by
    rw [htrace]
    exact List.take_prefix _ _
  exact ⟨_, hrun, endedIn_trapped (s := (s.latched (Header.ofBytes s.stream.bytes) f.requests .roword).inHeader
    f.requests f.place) f.cause f.value _ hrequests⟩

/-- An accepted header leads to `ROWORD`. -/
theorem State.atLoadStart.header_accepted (h : s.atLoadStart) (hl : 34 ≤ s.stream.bytes.length)
    (hf : headerTrap (Header.ofBytes s.stream.bytes) = none) :
    Reaches 10 s fun t => OnLoad s.config s.stream.bytes .roword headerTrace t ∧ t.frame = s.frame := by
  have hrun := h.run_header hl
  rw [hf] at hrun
  obtain ⟨hinv, _, hinputs, hscript, htrace⟩ := h
  refine ⟨_, hrun, ⟨run_inv hinv hrun, rfl, hinputs, ?_, rfl, ?_⟩, rfl⟩
  · simp [State.source, State.parsed, State.inHeader, State.latched, hscript]
  · simp [State.parsed, State.inHeader, State.latched, htrace, headerTrace]

end

/-! ## The geometry (R107, R108) -/

section
variable {c : Config} {b : List Byte} {p : Phase} {l : List Request} {s : State}

/-- The next step is the operation of the phase. -/
theorem OnLoad.step_exec (h : OnLoad c b p l s) {i : Instr} (ho : p.operation = some i) :
    Sys2Proof.Machine.step s = exec i s := step_operation h.inv.legal h.inputs (h.phase ▸ ho)

/-- A negative width ends the load. -/
theorem OnLoad.stride_traps (h : OnLoad c b .stride headerTrace s) (hw : (Header.ofBytes b).width.toInt < 0) :
    Reaches 1 s (EndedIn s.frame .geoWidthNegative (Header.ofBytes b).width) := by
  rw [← h.widthRaw] at hw ⊢
  exact .one ((h.step_exec rfl).trans (execStride_negative hw))
    (endedIn_trapped .geoWidthNegative _ _ (h.trace ▸ List.prefix_rfl))

/-- Any other width leads to `CLIP`. -/
theorem OnLoad.stride_passes (h : OnLoad c b .stride l s) (hw : 0 ≤ (Header.ofBytes b).width.toInt) :
    Reaches 1 s fun t => OnLoad c b .clip l t ∧ t.frame = s.frame := by
  rw [← h.widthRaw] at hw
  obtain ⟨hs, ht⟩ := h.step rfl (execStride_nonneg hw) rfl rfl h.trace
  exact .one hs ⟨ht, rfl⟩

/-- More frames than there is room for end the load. -/
theorem OnLoad.clip_traps (h : OnLoad c b .clip headerTrace s)
    (hw : c.maxFrames.toNat < frameTotalOf c (Header.ofBytes b).width) :
    Reaches 1 s (EndedIn s.frame .capFrames (BitVec.ofNat 32 (frameTotalOf c (Header.ofBytes b).width))) := by
  obtain ⟨hwidth, _⟩ := h.milestone (by decide) .stride (by decide)
  rw [← h.widthRaw, ← hwidth, ← h.config] at hw ⊢
  exact .one ((h.step_exec rfl).trans (execClip_overCapacity hw))
    (endedIn_trapped (s := clipRegisters s) .capFrames _ _ (h.trace ▸ List.prefix_rfl))

end

/-- The header, the width and the number of frames are checked in the order of R138. -/
theorem State.atLoadStart.ends_in_cause {s : State} {c : Cause} {v : Word} (h : s.atLoadStart)
    (hl : 34 ≤ s.stream.bytes.length) (hc : loadCause s.config s.stream.bytes = some (c, v)) :
    ∃ k, k ≤ 13 ∧ Reaches k s (EndedIn s.frame c v) := by
  cases hf : headerTrap (Header.ofBytes s.stream.bytes) with
  | some f =>
    cases (loadCause_of_headerTrap s.config hf).symm.trans hc
    exact ⟨10, by decide, h.header_traps hl hf⟩
  | none =>
    rw [loadCause_of_accepted s.config hf] at hc
    have hstride : Reaches 11 s fun t => OnLoad s.config s.stream.bytes .stride headerTrace t ∧ t.frame = s.frame :=
      (h.header_accepted hl hf).trans fun t ⟨ht, he⟩ => .one ht.roword.1 ⟨ht.roword.2, he⟩
    split_ifs at hc with hwidth hframes <;> cases hc
    · exact ⟨12, by decide, hstride.trans fun t ⟨ht, he⟩ => he ▸ ht.stride_traps hwidth⟩
    · have hclip : Reaches 12 s fun t => OnLoad s.config s.stream.bytes .clip headerTrace t ∧ t.frame = s.frame :=
        hstride.trans fun t ⟨ht, he⟩ => he ▸ ht.stride_passes (not_lt.mp hwidth)
      exact ⟨13, by decide, hclip.trans fun t ⟨ht, he⟩ => he ▸ ht.clip_traps hframes⟩

/-- Settles O55: the load ends in the trap of its first cause. -/
theorem loadEndsInItsFirstCause : Obligations.LoadEndsInItsFirstCause := by
  unfold Obligations.LoadEndsInItsFirstCause
  intro s c v h hl hc
  obtain ⟨k, hk, t, hr, ht⟩ := h.ends_in_cause hl hc
  exact ⟨k, t, hk, hr, ht.phase, ht.errCode, ht.errValue, ht.errIo, ht.frameCount, ht.frame, ht.trace⟩

end Sys2Proof.Machine
end

section
/-! SUPPORT. The frames a load builds (spec/45_frame_finish.md R138, R139): an invariant of the load beside its phase says
which pixels of the image `FRAME` holds already and what the pixel registers carry; in `DONE` it is the big-step function. -/

namespace Sys2Proof.Machine

/-! ## The pixels of the stream (R67, R138) -/

/-- The triple the stream holds for display row `r` and column `f`. -/
def loadPixel (b : List Byte) (r f : Nat) : Triple := Triple.ofBytes (slice (loadRowStart b r + 3 * f) 3 b)

/-- That triple as it is stored, corrected and reordered. -/
def storedPixel (c : Config) (b : List Byte) (r f : Nat) : Triple := ((loadPixel b r f).corrected c).reordered c

/-- The strip position of display row `r` (R130). -/
def rowPosition (c : Config) (r : Nat) : Nat := c.stripLength.toNat - 1 - r

/-- `FRAME` holds the image's rows before `r`, and of row `r` the columns before `f`. -/
def Drawn (c : Config) (b : List Byte) (m : Memory) (r f : Nat) : Prop :=
  ∀ r' f' k, r' < loadRows c b → f' < loadWidth b → k < 3 → (r' < r ∨ r' = r ∧ f' < f) →
    m.read (frameAddress c f' (rowPosition c r') + k) = (storedPixel c b r' f').bytes[k]?

theorem orderAt_lt (c : Config) (k : Nat) : orderAt c k < 3 := by
  unfold orderAt
  split <;> exact channelCode_lt _

theorem loadPixel_bytes_getElem? (b : List Byte) (r f : Nat) {k : Nat} (h : k < 3) :
    (loadPixel b r f).bytes[k]? = some (b.getD (loadRowStart b r + 3 * f + k) 0) := by
  have hslice : ∀ j, j < 3 →
      (slice (loadRowStart b r + 3 * f) 3 b).getD j 0 = b.getD (loadRowStart b r + 3 * f + j) 0 := by
    intro j hj
    simp [slice, List.getD_eq_getElem?_getD, List.getElem?_take_of_lt hj, List.getElem?_drop]
  match k, h with
  | 0, _ => exact congrArg some (hslice 0 (by decide))
  | 1, _ => exact congrArg some (hslice 1 (by decide))
  | 2, _ => exact congrArg some (hslice 2 (by decide))

/-- A stored pixel is the table's entry of the stream byte R138 names. -/
theorem storedPixel_bytes_getElem? (c : Config) (b : List Byte) (r f : Nat) {k : Nat} (h : k < 3) :
    (storedPixel c b r f).bytes[k]? = some (lutAt c (b.getD (loadRowStart b r + 3 * f + orderAt c k) 0)) := by
  rw [storedPixel, Triple.bytes_reordered_getElem? _ _ h, Triple.bytes_corrected, List.getElem?_map,
    loadPixel_bytes_getElem? b r f (orderAt_lt c k), Option.map_some]

theorem loadRows_le (c : Config) (b : List Byte) : loadRows c b ≤ c.stripLength.toNat := Nat.min_le_right _ _

section
variable {c : Config} {b : List Byte} {m : Memory} {r f : Nat}

theorem drawn_zero (c : Config) (b : List Byte) (m : Memory) : Drawn c b m 0 0 := by
  intro r' f' k _ _ _ hbefore
  omega

/-- A row with all its columns drawn is drawn. -/
theorem Drawn.row (h : Drawn c b m r (loadWidth b)) : Drawn c b m (r + 1) 0 := by
  intro r' f' k hr hf hk hbefore
  exact h r' f' k hr hf hk (by omega)

/-- The pixel store draws one pixel more (R130). -/
theorem Drawn.pixel (h : Drawn c b m r f) (hr : r < loadRows c b) :
    Drawn c b (m.writeBytes (frameAddress c f (rowPosition c r)) (storedPixel c b r f).bytes) r (f + 1) := by
  have hrows := loadRows_le c b
  intro r' f' k hr' hf' hk hbefore
  by_cases hsame : r' = r ∧ f' = f
  · obtain ⟨rfl, rfl⟩ := hsame
    exact Memory.read_writeBytes_inside m _ hk
  · have hp : rowPosition c r < c.stripLength.toNat ∧ rowPosition c r' < c.stripLength.toNat ∧
        (f ≠ f' ∨ rowPosition c r ≠ rowPosition c r') := by
      unfold rowPosition
      omega
    have hapart := frameAddress_apart hp.1 hp.2.1 hp.2.2
    have houtside : frameAddress c f' (rowPosition c r') + k < frameAddress c f (rowPosition c r) ∨
        frameAddress c f (rowPosition c r) + 3 ≤ frameAddress c f' (rowPosition c r') + k := by
      omega
    exact (Memory.read_writeBytes_outside m (storedPixel c b r f).bytes houtside).trans
      (h r' f' k hr' hf' hk (by omega))

/-- A store behind the image leaves it drawn. -/
theorem Drawn.behind {a : Nat} {v : List Byte} (h : Drawn c b m r f) (ha : loadWidth b * frameLength c ≤ a) :
    Drawn c b (m.writeBytes a v) r f := by
  have hrows := loadRows_le c b
  intro r' f' k hr' hf' hk hbefore
  have hp : rowPosition c r' < c.stripLength.toNat := by
    unfold rowPosition
    omega
  rw [Memory.read_writeBytes_outside m v (.inl ((pixel_inFrames hf' hp hk).trans_le ha))]
  exact h r' f' k hr' hf' hk hbefore

end

/-! ## The load's invariant (R116 to R118, R126, R129, R130) -/

/-- What a load of `b` has drawn when it stands in phase `p`, and what `PIX`, `COR` and `OUT` carry. -/
def Painting (c : Config) (b : List Byte) (s : State) : Phase → Prop
  | .roword | .stride | .clip | .fclear => True
  | .rowseek => Drawn c b s.frame s.row.toNat 0
  | .pixrd => Drawn c b s.frame s.row.toNat s.col.toNat
  | .gamma => Drawn c b s.frame s.row.toNat s.col.toNat ∧ s.pix = loadPixel b s.row.toNat s.col.toNat
  | .reord => Drawn c b s.frame s.row.toNat s.col.toNat ∧ s.cor = (loadPixel b s.row.toNat s.col.toNat).corrected c
  | .pixst => Drawn c b s.frame s.row.toNat s.col.toNat ∧ s.out = storedPixel c b s.row.toNat s.col.toNat
  | .rowend => Drawn c b s.frame s.row.toNat (loadWidth b)
  | .blank | .finish | .done => Drawn c b s.frame (loadRows c b) 0
  | _ => False

/-- A load of `b` is under way or done, and has drawn what its phase says. -/
def Paints (c : Config) (b : List Byte) (s : State) : Prop := ∃ p l, OnLoad c b p l s ∧ Painting c b s p

section
variable {c : Config} {b : List Byte} {p : Phase} {l : List Request} {s : State}

theorem painting_rowPhase {r : Nat} (hrow : s.row.toNat = r) (hr : r ≤ loadRows c b) (h : Drawn c b s.frame r 0) :
    Painting c b s (rowPhase (loadRows c b) r) := by
  subst hrow
  unfold rowPhase
  split
  · exact h
  · have hlast : s.row.toNat = loadRows c b := by omega
    show Drawn c b s.frame (loadRows c b) 0
    exact hlast ▸ h

theorem painting_pixelPhase {f : Nat} (hcol : s.col.toNat = f) (hf : f ≤ loadWidth b)
    (h : Drawn c b s.frame s.row.toNat f) : Painting c b s (pixelPhase (loadWidth b) f) := by
  subst hcol
  unfold pixelPhase
  split
  · exact h
  · have hlast : s.col.toNat = loadWidth b := by omega
    show Drawn c b s.frame s.row.toNat (loadWidth b)
    exact hlast ▸ h

/-- One step on. -/
theorem StepsOn.paints {t : State} (h : StepsOn c b s t p l) (ht : Painting c b t p) : Reaches 1 s (Paints c b) :=
  .one h.1 ⟨p, l, h.2, ht⟩

theorem OnLoad.row_lt (h : OnLoad c b p l s) (hp : p.inRow) (hb : isBusy p = true) (hclip : p.past 13) :
    s.row.toNat < loadRows c b := (spot_inRow (h.inv.spot h.phase hb) hp).trans_eq (h.clipH hclip)

theorem OnLoad.col_lt (h : OnLoad c b p l s) (hp : p.inPixel) (hb : isBusy p = true) (hclip : p.past 13) :
    s.col.toNat < loadWidth b :=
  (spot_inPixel (h.inv.spot h.phase hb) hp).trans_eq (h.width ⟨Nat.lt_of_le_of_lt (by decide) hclip.1, hclip.2⟩)

/-- `BLANK` stores nothing before the frame behind the image. -/
theorem execBlank_frame {t : State} (ht : execBlank s = .next t) :
    t.frame = s.frame ∨ ∃ v, t.frame = s.frame.writeBytes (s.width.toNat * frameLength s.config) v := by
  unfold execBlank at ht
  split at ht
  · cases ht
    exact .inl rfl
  · cases (storeFrame_cases ht).2
    exact .inr ⟨_, rfl⟩

/-- The bytes `PIXRD` reads are the pixel's (R117). -/
theorem OnLoad.pixel_read (h : OnLoad c b .pixrd l s) :
    Triple.ofBytes (slice s.stream.pos.toNat 3 s.stream.bytes) = loadPixel b s.row.toNat s.col.toNat := by
  obtain ⟨_, _, hspos⟩ := h.inv.spot h.phase rfl
  rw [(h.inv.going h.phase rfl).shadow rfl (by decide), hspos, h.seekTarget_eq ⟨by decide, by decide⟩, h.bytes,
    loadPixel]

/-- Every step of a load keeps the invariant. -/
theorem Paints.step (h : Paints c b s) (hh : streamHolds c b) (hc : loadCause c b = none) : Reaches 1 s (Paints c b) := by
  obtain ⟨p, l, h, hs⟩ := h
  cases p with
  | roword => exact h.roword.paints trivial
  | stride => exact (h.stride hc).paints trivial
  | clip => exact (h.clip hc).paints trivial
  | fclear =>
    have hrow := (word_zero_iff _).mp (h.inv.spot h.phase rfl).1
    exact h.fclear.paints (painting_rowPhase hrow (Nat.zero_le _) (drawn_zero c b _))
  | rowseek => exact h.rowseek.paints (painting_pixelPhase rfl (Nat.zero_le _) hs)
  | pixrd =>
    have hcol := h.col_lt trivial rfl ⟨by decide, by decide⟩
    have hrow := h.row_lt trivial rfl ⟨by decide, by decide⟩
    exact (h.pixrd (hh.2 _ hrow (Nat.zero_lt_of_lt hcol))).paints ⟨hs, h.pixel_read⟩
  | gamma => exact h.gamma.paints ⟨hs.1, by rw [hs.2, h.config]⟩
  | reord => exact h.reord.paints ⟨hs.1, by rw [hs.2, h.config, storedPixel]⟩
  | pixst =>
    have hcol := h.col_lt trivial rfl ⟨by decide, by decide⟩
    have hrow := h.row_lt trivial rfl ⟨by decide, by decide⟩
    have haddr : pixelAddress s = frameAddress c s.col.toNat (rowPosition c s.row.toNat) := by
      rw [pixelAddress, stripPosition, h.config, rowPosition]
    have hnext := toNat_succ_of_lt (spot_inPixel (h.inv.spot h.phase rfl) trivial)
    refine h.pixst.paints (painting_pixelPhase hnext hcol ?_)
    rw [haddr, hs.2]
    exact hs.1.pixel hrow
  | rowend =>
    have hrow := h.row_lt trivial rfl ⟨by decide, by decide⟩
    have hnext := toNat_succ_of_lt (spot_inRow (h.inv.spot h.phase rfl) trivial)
    exact h.rowend.paints (painting_rowPhase hnext hrow hs.row)
  | blank =>
    obtain ⟨t, ht⟩ := h.blank
    refine ht.paints ?_
    show Drawn c b t.frame (loadRows c b) 0
    rcases execBlank_frame ((h.step_exec rfl).symm.trans ht.1) with hf | ⟨v, hf⟩ <;> rw [hf]
    · exact hs
    · exact hs.behind (by rw [h.width ⟨by decide, by decide⟩, h.config])
  | finish => exact h.finish.paints hs
  | done => exact .one (step_resting h.inv.legal h.inputs (by rw [h.phase]; rfl)) ⟨_, _, h, hs⟩
  | _ => exact hs.elim

/-- Every run of a load keeps the invariant. -/
theorem Paints.run (h : Paints c b s) (hh : streamHolds c b) (hc : loadCause c b = none) (n : Nat) :
    Reaches n s (Paints c b) :=
  n.mul_one ▸ Reaches.iterate (P := fun _ => Paints c b) h fun _ _ _ ht => ht.step hh hc

/-! ## The finished load (R138) -/

theorem loadByte_image (c : Config) (b : List Byte) (f k : Nat) {p : Nat}
    (h : c.stripLength.toNat - 1 - p < loadRows c b) :
    loadByte c b f p k =
      lutAt c (b.getD (loadRowStart b (c.stripLength.toNat - 1 - p) + 3 * f + orderAt c k) 0) := if_pos h

theorem loadByte_dark (c : Config) (b : List Byte) (f k : Nat) {p : Nat}
    (h : ¬c.stripLength.toNat - 1 - p < loadRows c b) : loadByte c b f p k = 0 := if_neg h

/-- A load of `b` stands in `DONE` with the frames of the big-step function. -/
structure Loaded (c : Config) (b : List Byte) (s : State) : Prop where
  phase : s.phase = .done
  frameCount : s.frameCount.toNat = loadWidth b + blankFrames c
  image : ∀ f p k, f < loadWidth b → p < c.stripLength.toNat → k < 3 →
    s.frame.read (frameAddress c f p + k) = some (loadByte c b f p k)
  dark : c.loop = false → ∀ k, k < frameLength c → s.frame.read (loadWidth b * frameLength c + k) = some 0

/-- What is drawn, and what `FCLEAR` and `BLANK` have left dark. -/
theorem OnLoad.loaded (h : OnLoad c b .done l s) (hs : Drawn c b s.frame (loadRows c b) 0) : Loaded c b s := by
  have hwidth := h.width ⟨by decide, by decide⟩
  have hrows := h.clipH ⟨by decide, by decide⟩
  obtain ⟨_, hzero⟩ := h.milestone (by decide) .fclear (by decide)
  have hblank := h.milestone (by decide) .blank (by decide)
  have hcount := h.inv.frameCount_done h.phase
  obtain rfl := h.config
  rw [hwidth] at hcount hzero
  refine ⟨h.phase, hcount, fun f p k hf hp hk => ?_, fun hl k hk => hwidth ▸ hblank hl k hk⟩
  by_cases hr : s.config.stripLength.toNat - 1 - p < loadRows s.config b
  · have hposition : rowPosition s.config (s.config.stripLength.toNat - 1 - p) = p := by
      unfold rowPosition
      omega
    have hdrawn := hs _ f k hr hf hk (.inl hr)
    rwa [hposition, storedPixel_bytes_getElem? _ _ _ _ hk, ← loadByte_image _ _ _ _ hr] at hdrawn
  · rw [loadByte_dark _ _ _ _ hr]
    exact hzero f p k hf (by omega) hk

/-- A load that meets no error ends with the frames of R138. -/
theorem State.atLoadStart.loads (h : s.atLoadStart) (hh : streamHolds s.config s.stream.bytes)
    (hc : loadCause s.config s.stream.bytes = none) :
    Reaches (loadSteps s.config s.stream.bytes) s (Loaded s.config s.stream.bytes) := by
  obtain ⟨t, hrun, ht⟩ := h.completes hh hc
  have hpaints := (h.header hh.1 hc).trans
    (n := 6 + loadRows s.config s.stream.bytes * (2 + 4 * loadWidth s.stream.bytes))
    fun u hu => Paints.run ⟨_, _, hu, trivial⟩ hh hc _
  rw [← Nat.add_assoc] at hpaints
  obtain ⟨u, hrun', p, l, hu, hs⟩ := hpaints
  cases hrun.symm.trans hrun'
  cases hu.phase.symm.trans ht.phase
  exact ⟨t, hrun, ht.loaded hs⟩

end

/-- Settles O56: the load's invariant in `DONE`. -/
theorem loadBuildsTheFrameSequence : Obligations.LoadBuildsTheFrameSequence := by
  unfold Obligations.LoadBuildsTheFrameSequence
  intro s h hh hc
  obtain ⟨t, hrun, ht⟩ := h.loads hh hc
  refine ⟨t, hrun, ht.phase, ?_, ht.image, fun hl p k hp hk => ?_⟩
  · rw [ht.frameCount, blankFrames_eq]
  · have haddr : (loadWidth s.stream.bytes * s.config.stripLength.toNat + p) * 3 + k =
        loadWidth s.stream.bytes * frameLength s.config + (p * 3 + k) := by
      rw [frameLength]
      ring
    rw [haddr]
    exact ht.dark hl _ (by unfold frameLength; omega)

/-! ## The order of the rows (R67, R139 b) -/

section
variable {c : Config} {b b' : List Byte}

theorem loadRows_of_opposite
    (h : (Header.ofBytes b').height.toInt = -(Header.ofBytes b).height.toInt) : loadRows c b' = loadRows c b := by
  rw [loadRows, loadHeight, h, Int.natAbs_neg]
  rfl

/-- Streams that show the same rows give the same bytes. -/
theorem loadByte_congr (hrows : loadRows c b' = loadRows c b)
    (hshow : ∀ r j, r < loadRows c b → j < 3 * loadWidth b →
      b'[loadRowStart b' r + j]? = b[loadRowStart b r + j]?) {f : Nat} (p k : Nat) (hf : f < loadWidth b) :
    loadByte c b' f p k = loadByte c b f p k := by
  by_cases hr : c.stripLength.toNat - 1 - p < loadRows c b
  · have hk := orderAt_lt c k
    rw [loadByte_image _ _ _ _ hr, loadByte_image _ _ _ _ (hrows ▸ hr), List.getD_eq_getElem?_getD,
      List.getD_eq_getElem?_getD, Nat.add_assoc, Nat.add_assoc, hshow _ _ hr (by omega)]
  · rw [loadByte_dark _ _ _ _ hr, loadByte_dark _ _ _ _ (hrows ▸ hr)]

/-- An address of the image is a byte of a pixel (R48). -/
theorem exists_frameAddress {a w : Nat} (h : a < w * frameLength c) :
    ∃ f p k, f < w ∧ p < c.stripLength.toNat ∧ k < 3 ∧ a = frameAddress c f p + k := by
  have hpixel : a / 3 < w * c.stripLength.toNat := by
    have hframes : w * frameLength c = 3 * (w * c.stripLength.toNat) := Nat.mul_left_comm _ _ _
    omega
  have hstrip : 0 < c.stripLength.toNat := Nat.pos_of_mul_pos_left (Nat.zero_lt_of_lt hpixel)
  refine ⟨a / 3 / c.stripLength.toNat, a / 3 % c.stripLength.toNat, a % 3, Nat.div_lt_of_lt_mul ?_,
    Nat.mod_lt _ hstrip, Nat.mod_lt _ (by decide), ?_⟩
  · rwa [Nat.mul_comm]
  · rw [frameAddress, Nat.div_add_mod', Nat.div_add_mod']

/-- Loads of as many columns that agree on the image's bytes agree on every published byte. -/
theorem Loaded.read_eq {s s' : State} (h : Loaded c b s) (h' : Loaded c b' s') (hwidth : loadWidth b' = loadWidth b)
    (hbyte : ∀ f p k, f < loadWidth b → loadByte c b' f p k = loadByte c b f p k) {a : Nat}
    (ha : a < s.frameCount.toNat * frameLength c) : s'.frame.read a = s.frame.read a := by
  by_cases himage : a < loadWidth b * frameLength c
  · obtain ⟨f, p, k, hf, hp, hk, rfl⟩ := exists_frameAddress himage
    rw [h.image f p k hf hp hk, h'.image f p k (hwidth ▸ hf) hp hk, hbyte f p k hf]
  · obtain ⟨k, rfl⟩ := Nat.exists_eq_add_of_le (not_lt.mp himage)
    rw [h.frameCount, Nat.add_mul] at ha
    cases hl : c.loop with
    | true =>
      rw [blankFrames, if_pos hl] at ha
      omega
    | false =>
      rw [blankFrames_eq, if_pos hl] at ha
      have hk : k < frameLength c := by omega
      rw [h.dark hl k hk, ← hwidth, h'.dark hl k hk]

end

/-- Settles O59: the rows shown decide the frames. -/
theorem rowOrderDoesNotShowInTheFrames : Obligations.RowOrderDoesNotShowInTheFrames := by
  unfold Obligations.RowOrderDoesNotShowInTheFrames
  intro s s' h h' hconfig hh hh' hc hc' hwidth hheight hshow
  obtain ⟨t, hrun, ht⟩ := h.loads hh hc
  obtain ⟨t', hrun', ht'⟩ := h'.loads hh' hc'
  rw [hconfig] at ht'
  have hbyte := fun f p k => loadByte_congr (loadRows_of_opposite hheight) hshow (f := f) p k
  refine ⟨t, t', hrun, hrun', ht.phase, ht'.phase, BitVec.eq_of_toNat_eq ?_,
    fun a ha => ht.read_eq ht' hwidth hbyte ha⟩
  rw [ht.frameCount, ht'.frameCount, hwidth]

end Sys2Proof.Machine
end

section
/-! SUPPORT. RESET and what may change when (spec/70_reset_and_hazards.md R170, R172, R175, R176): everything one step can
do to `CMDERR` and to a machine at rest is said once, and the two safety statements are read off it. -/

namespace Sys2Proof.Machine

/-! ## RESET (R170, R172) -/

/-- `STATUS` reads 0 after reset. -/
theorem readReg_status_assertReset (s : State) : readReg (assertReset s) 0x01 = 0 := rfl

/-- In `IDLE`, where reset leaves the machine, every `FRD` is refused (R82). -/
theorem execFrd_assertReset (f : Nat) (s : State) :
    execFrd f (assertReset s) = .next { refuseCommand (assertReset s) with answer := .nothing } :=
  execFrd_refused fun h => nomatch h.1

/-- `IDLE` names no operation (R11). -/
theorem decode_assertReset_phase (s : State) : decode (.phase (assertReset s).phase.code) = .error .restingPhase :=
  decode_phase_code .idle

/-- Settles O17: the state after `RESET` is `assertReset`'s, field by field. -/
theorem resetValuesFromAnyState : Obligations.ResetValuesFromAnyState := by
  unfold Obligations.ResetValuesFromAnyState
  intro s rest hl
  refine ⟨assertReset { s with inputs := rest }, step_input _ _ hl, rfl, rfl, rfl, rfl, rfl, rfl, rfl, rfl, rfl, rfl,
    rfl, rfl, rfl, rfl, rfl, rfl, rfl, rfl, rfl, rfl, rfl, rfl, rfl, rfl, rfl, rfl, rfl, rfl, rfl,
    readReg_status_assertReset _, fun f => ⟨_, execFrd_assertReset f _, rfl, fun v hv => nomatch hv⟩, fun i hi => ?_⟩
  rw [decode_assertReset_phase] at hi
  cases hi

/-! ## What a step of the outside changes (R27, R55, R80, R83, R140) -/

/-- All that a step may change that neither resets, nor begins a load, nor runs an operation: the stream's bytes, the
host's side, and `CMDERR`, which it can set but not clear. -/
def State.TouchedOutside (s t : State) : Prop :=
  ∃ (b : List Byte) (e : Bool) (i : List Input) (a : HostAnswer), (s.cmdErr = true → e = true) ∧
    t = { s with stream := { s.stream with bytes := b }, cmdErr := e, inputs := i, answer := a }

theorem State.TouchedOutside.of_inputs (s : State) (rest : List Input) : s.TouchedOutside { s with inputs := rest } :=
  ⟨s.stream.bytes, s.cmdErr, rest, s.answer, id, rfl⟩

theorem execStart_next {s t : State} (h : execStart s = .next t) :
    ((s.phase = .idle ∨ s.phase = .error) ∧ t = beginLoad s) ∨ t = refuseCommand s := by
  unfold execStart at h
  split at h <;> cases h
  · exact .inl ⟨‹_›, rfl⟩
  · exact .inr rfl

theorem execFrd_next {f : Nat} {s t : State} (h : execFrd f s = .next t) :
    (∃ v, t = { s with answer := .bytes v }) ∨ t = { refuseCommand s with answer := .nothing } := by
  unfold execFrd at h
  split at h
  · obtain ⟨v, _, hk⟩ := loadFrame_cases h
    cases hk
    exact .inl ⟨v, rfl⟩
  · cases h
    exact .inr rfl

/-- Everything a command word can do: only the word `START` in `IDLE` or `ERROR` reaches into the load (R81 to R83). -/
theorem commandWrite_next {w : Word} {s t : State} (h : commandWrite w s = .next t) :
    (w = 0x00000001 ∧ (s.phase = .idle ∨ s.phase = .error)) ∨ s.TouchedOutside t := by
  have refused (a : HostAnswer) : s.TouchedOutside { refuseCommand s with answer := a } :=
    ⟨s.stream.bytes, true, s.inputs, a, fun _ => rfl, rfl⟩
  cases hd : decode (.command w) with
  | error e =>
    cases (commandWrite_of_error s hd).symm.trans h
    exact .inr (refused s.answer)
  | ok i =>
    have hx := (commandWrite_of_decode s hd).symm.trans h
    rcases decodeCommand_cases hd with ⟨rfl, hw⟩ | ⟨f, _, rfl, _⟩
    · rcases execStart_next hx with ⟨hp, _⟩ | rfl
      · exact .inl ⟨hw, hp⟩
      · exact .inr (refused s.answer)
    · rcases execFrd_next hx with ⟨v, rfl⟩ | rfl
      · exact .inr ⟨s.stream.bytes, s.cmdErr, s.inputs, .bytes v, id, rfl⟩
      · exact .inr (refused .nothing)

/-- Everything a turn of the sequencer can do to `CMDERR` and at rest (R140). -/
theorem sequencerStep_next {s t : State} (h : sequencerStep s = .next t) :
    (isBusy s.phase = true ∧ t.cmdErr = s.cmdErr) ∨ s.TouchedOutside t := by
  cases hb : isBusy s.phase with
  | true => exact .inl ⟨rfl, (sequencerStep_kept h).cmdErr⟩
  | false =>
    cases (sequencerStep_rest hb).symm.trans h
    exact .inr (.of_inputs s s.inputs)

theorem headerStep_next {s t : State} (h : headerStep s = .next t) :
    (isBusy s.phase = true ∧ t.cmdErr = s.cmdErr) ∨ s.TouchedOutside t := by
  rcases headerStep_eq s with ⟨hp, _⟩ | hx
  · exact .inl ⟨by rw [hp]; rfl, (headerStep_kept h).cmdErr⟩
  · exact sequencerStep_next (hx.symm.trans h)

theorem waitStep_next {s t : State} {rest : List Input} (h : waitStep s rest = .next t) :
    (isBusy s.phase = true ∧ t.cmdErr = s.cmdErr) ∨ s.TouchedOutside t := by
  unfold waitStep at h
  split at h
  · exact sequencerStep_next h
  · cases h
    exact .inr (.of_inputs s rest)

/-- Everything a step can do to `CMDERR` and to a machine at rest: `RESET`, an accepted `START`, an operation of a load
under way, which keeps `CMDERR`, or no more than the outside touches. -/
theorem nextEvent_next {s t : State} (h : nextEvent s = .next t) :
    s.inputs.head? = some .reset ∨
    (s.inputs.head? = some (.write 0 0x00000001) ∧ (s.phase = .idle ∨ s.phase = .error)) ∨
    (isBusy s.phase = true ∧ t.cmdErr = s.cmdErr) ∨ s.TouchedOutside t := by
  unfold nextEvent at h
  split at h
  case h_1 => exact .inr (.inr (sequencerStep_next h))
  case h_2 rest _ => exact .inr (.inr (sequencerStep_next (s := { s with inputs := rest }) h))
  case h_3 => exact .inr (.inr (waitStep_next h))
  case h_4 rest _ => exact .inr (.inr (headerStep_next (s := { s with inputs := rest }) h))
  case h_5 i w rest hi =>
    unfold hostWrite at h
    split at h
    case isTrue h0 =>
      rcases commandWrite_next h with ⟨rfl, hp⟩ | ht
      · exact .inr (.inl ⟨by rw [hi, h0]; rfl, hp⟩)
      · exact .inr (.inr (.inr ht))
    case isFalse =>
      cases h
      exact .inr (.inr (.inr (.of_inputs s rest)))
  case h_6 i rest _ =>
    cases h
    exact .inr (.inr (.inr ⟨s.stream.bytes, s.cmdErr, rest, _, id, rfl⟩))
  case h_7 rest hi => exact .inl (by rw [hi]; rfl)
  case h_8 b rest _ =>
    cases h
    exact .inr (.inr (.inr ⟨b, s.cmdErr, rest, s.answer, id, rfl⟩))

/-! ## CMDERR and the published sequence (R175, R176) -/

/-- Settles O9: an operation keeps `CMDERR`, and the outside can only set it otherwise. -/
theorem commandErrorIsSticky : Obligations.CommandErrorIsSticky := by
  unfold Obligations.CommandErrorIsSticky
  intro s t h hset hclear
  rcases nextEvent_next (step_next h).2 with hreset | hstart | ⟨_, hkept⟩ | ⟨b, e, i, a, hsticky, rfl⟩
  · exact .inl hreset
  · exact .inr hstart
  · exact absurd (hclear.symm.trans (hkept.trans hset)) Bool.false_ne_true
  · exact absurd (hclear.symm.trans (hsticky hset)) Bool.false_ne_true

/-- Settles O49: in `DONE` no `START` is accepted and no operation runs, so a step touches the outside only. -/
theorem finishedSequenceIsImmutable : Obligations.FinishedSequenceIsImmutable := by
  unfold Obligations.FinishedSequenceIsImmutable
  intro s t hdone hnoReset h
  rcases nextEvent_next (step_next h).2 with hreset | ⟨_, hp⟩ | ⟨hb, _⟩ | ⟨b, e, i, a, _, rfl⟩
  · exact absurd hreset hnoReset
  · rw [hdone] at hp
    rcases hp with hp | hp <;> cases hp
  · rw [hdone] at hb
    cases hb
  · exact ⟨hdone, rfl, fun _ => rfl⟩

end Sys2Proof.Machine
end
